-- ==== Sys2Proof/Word.lean ====
section
/-! DEFINITION. The word types of B2G (00_scope.md R7, R8): bytes, 64-bit words and fixed arrays of words. -/

namespace Sys2Proof

/-- One byte of a message or digest (R10). -/
abbrev Byte := BitVec 8

/-- The block's word: 64 bits, unsigned (R7). `+` and `*` wrap modulo 2^64 (R9). -/
abbrev Word := BitVec 64

/-- A register array or buffer of `n` words (10_state.md R21: each is addressed by a fixed index). -/
abbrev Words (n : Nat) := Vector Word n

/-- R9: `ALL_ONES`. -/
def allOnes : Word := 0xFFFFFFFFFFFFFFFF#64

/-- `n` words, all 0: the Zero block of the glossary, and every buffer's reset value (R40). -/
def zeroWords (n : Nat) : Words n := Vector.replicate n 0#64

end Sys2Proof
end

