-- ==== Sys2Proof/Syntax.lean ====
section
/-! DEFINITION. The seven commands of 30_encoding.md R85, one constructor per row of spec/opcode_table.json. -/

namespace Sys2Proof

/-- A decoded command. The fields are the command word's own bytes: NN = w[15:8], LEN = w[23:16] (R81, R84). -/
inductive Instr where
  /-- R110: start a hash with a 64-byte digest. -/
  | init64
  /-- R111: start a hash with an `nn`-byte digest. -/
  | initv (nn : BitVec 8)
  /-- R112: compress the 128 bytes in M as a non-final block. -/
  | block
  /-- R113: compress the final block, whose first `len` bytes are in M. -/
  | last (len : BitVec 8)
  /-- R146: R <- G(X, Y). -/
  | gcomp
  /-- R160: overwrite every data register and buffer with zero. -/
  | zeroize
  /-- R161: acknowledge a command error. -/
  | ack
  deriving DecidableEq, Repr

/-- The rows of the opcode map (R85), without their fields. -/
inductive Opcode where
  | init64
  | initv
  | block
  | last
  | gcomp
  | zeroize
  | ack
  deriving DecidableEq, Repr

/-- The row a command belongs to. -/
def Instr.opcode : Instr → Opcode
  | .init64 => .init64
  | .initv _ => .initv
  | .block => .block
  | .last _ => .last
  | .gcomp => .gcomp
  | .zeroize => .zeroize
  | .ack => .ack

end Sys2Proof
end

