-- ==== Sys2Proof/Decode.lean ====
section
/-! DEFINITION. Decoding of a command word, total on every 64-bit word and rejecting by name (30_encoding.md R81 to
R87), and after it the encoder, both from the opcode map of R85. -/

namespace Sys2Proof

/-- Why a word is no command. Raised by `decode` alone. Safe: the spec names both (R83, R86). -/
inductive DecodeError where
  /-- R86: w[7:0] is not an opcode of the map. -/
  | badOpcode
  /-- R83: a bit the opcode does not use is 1. -/
  | reservedBits
  deriving DecidableEq, Repr

/-- R81: OP = w[7:0]. -/
def opField (w : Word) : BitVec 8 := w.extractLsb' 0 8

/-- R81: NN = w[15:8]. -/
def nnField (w : Word) : BitVec 8 := w.extractLsb' 8 8

/-- R81: LEN = w[23:16]. -/
def lenField (w : Word) : BitVec 8 := w.extractLsb' 16 8

/-- R85, column OP. -/
def Opcode.byte : Opcode → BitVec 8
  | .init64 => 0x01#8
  | .initv => 0x02#8
  | .block => 0x03#8
  | .last => 0x04#8
  | .gcomp => 0x08#8
  | .zeroize => 0x0E#8
  | .ack => 0x0F#8

/-- R85, column match. -/
def Opcode.matchWord : Opcode → Word
  | .init64 => 0x0000000000000001#64
  | .initv => 0x0000000000000002#64
  | .block => 0x0000000000000003#64
  | .last => 0x0000000000000004#64
  | .gcomp => 0x0000000000000008#64
  | .zeroize => 0x000000000000000E#64
  | .ack => 0x000000000000000F#64

/-- R85, column mask: the bits that must equal the match, reserved bits included. -/
def Opcode.maskWord : Opcode → Word
  | .init64 => 0xFFFFFFFFFFFFFFFF#64
  | .initv => 0xFFFFFFFFFFFF00FF#64
  | .block => 0xFFFFFFFFFFFFFFFF#64
  | .last => 0xFFFFFFFFFF00FFFF#64
  | .gcomp => 0xFFFFFFFFFFFFFFFF#64
  | .zeroize => 0xFFFFFFFFFFFFFFFF#64
  | .ack => 0xFFFFFFFFFFFFFFFF#64

/-- The row whose OP is `b`; none for the values R86 lists as illegal. -/
def opcodeOfByte (b : BitVec 8) : Option Opcode :=
  if b = 0x01#8 then some .init64
  else if b = 0x02#8 then some .initv
  else if b = 0x03#8 then some .block
  else if b = 0x04#8 then some .last
  else if b = 0x08#8 then some .gcomp
  else if b = 0x0E#8 then some .zeroize
  else if b = 0x0F#8 then some .ack
  else none

/-- The command a row stands for, with the fields it uses taken from the word (R82, R84). -/
def Opcode.build (o : Opcode) (w : Word) : Instr :=
  match o with
  | .init64 => .init64
  | .initv => .initv (nnField w)
  | .block => .block
  | .last => .last (lenField w)
  | .gcomp => .gcomp
  | .zeroize => .zeroize
  | .ack => .ack

/-- R85: "if op is not in the table, E_OPCODE; else if `w & mask ≠ match`, E_RSVD; else the row's command with its
field values". The ranges of the fields are checked later (R172, `checkInstr`). -/
def decode (w : Word) : Except DecodeError Instr :=
  match opcodeOfByte (opField w) with
  | none => .error .badOpcode
  | some o => if w &&& o.maskWord = o.matchWord then .ok (o.build w) else .error .reservedBits

/-- The decoder on an instruction whose bits are `w`, numbered as spec/opcode_table.json numbers them. A command is
the 64-bit value of one 8-byte write to CMD (R80), so its bits are the word's bits; a command has no bit above 63. -/
def decodeTableWord (nbits w : Nat) : Option Instr :=
  if w % 2 ^ nbits < 2 ^ 64 then
    match decode (BitVec.ofNat 64 (w % 2 ^ nbits)) with
    | .ok i => some i
    | .error _ => none
  else none

/-- The bits of a command's fields, in place (R81). -/
def Instr.fieldBits : Instr → Word
  | .initv nn => nn.setWidth 64 <<< 8
  | .last len => len.setWidth 64 <<< 16
  | .init64 => 0#64
  | .block => 0#64
  | .gcomp => 0#64
  | .zeroize => 0#64
  | .ack => 0#64

/-- The word the host writes to CMD for a command (30_encoding.md R88). -/
def encode (i : Instr) : Word := i.opcode.matchWord ||| i.fieldBits

end Sys2Proof
end

