-- ==== Sys2Proof/Config.lean ====
section
/-! DEFINITION. What one B2G block is built with: its identification word, the platform's OPEN parameters
(93_implementation_defined.md I23), and the free values of the hidden engine state (I24). -/

namespace Sys2Proof

/-- 10_state.md R24: the constant read at offset 0x000. Bits 15:0 the command-set revision 1, 31:16 the tag 0xB2B0,
39:32 the Argon2 version 0x13. -/
def Config.idValue : Word := 0x00000013B2B00001#64

/-- 10_state.md R39: the state of the engine that no host access reads. `v` is the BLAKE2b work vector, `q` the
working block of G, `progress` the engine's position within the running command. -/
structure EngineWork where
  v : Words 16
  q : Words 128
  progress : Nat
  deriving DecidableEq, Repr, Inhabited

/-- R40: the hidden engine state after reset, all 0. -/
def EngineWork.zero : EngineWork := { v := zeroWords 16, q := zeroWords 128, progress := 0 }

/-- I24: between acceptance and completion the hidden engine state has "any value". The n-th accepted command finds
this one: a constant without a body, so no proof can lean on what it is. Log 6. -/
opaque Config.freeWork : Nat → EngineWork

/-- How the host sees an access that was answered BUSERR (60_exceptions.md R178: "a bus fault, an imprecise abort, a
status bit of its interconnect"): the OPEN parameter `BUSERR_TO_HOST`. -/
inductive BusErrView where
  | busFault
  | impreciseAbort
  | statusBit
  deriving DecidableEq, Repr

/-- The OPEN parameters of 92_eei_decisions.md, which a model takes as arguments: no rule of the block depends on
one of them, so nothing of `Machine.step` reads this record. -/
structure Platform where
  /-- R51: the window's base address, a multiple of 4096 (`BASE`). -/
  base : Nat
  /-- R185: the interrupt line `irq` is routed to (`IRQ_LINE`). -/
  irqLine : Nat
  /-- R221: the latency in cycles of INIT64 and INITV (`LAT_INIT`), each latency at least 1. -/
  latInit : Nat
  latBlock : Nat
  latLast : Nat
  latGcomp : Nat
  latZeroize : Nat
  latAck : Nat
  /-- R61: whether the host's interconnect keeps its accesses in program order (`HOST_ORDERED`). -/
  hostOrdered : Bool
  /-- R178 (`BUSERR_TO_HOST`). -/
  busErrToHost : BusErrView
  deriving DecidableEq, Repr

/-- R51 and R221: what a platform's parameters must satisfy. -/
def Platform.wf (p : Platform) : Bool :=
  p.base % 4096 == 0 && decide (1 ≤ p.latInit) && decide (1 ≤ p.latBlock) && decide (1 ≤ p.latLast)
    && decide (1 ≤ p.latGcomp) && decide (1 ≤ p.latZeroize) && decide (1 ≤ p.latAck)

end Sys2Proof
end

