-- ==== Sys2Proof/Machine/State.lean ====
section
/-! DEFINITION. The state of the block as 10_state.md R40 lists it, with what the environment does next and what the
port answers; the state after reset; the two ways a step can fail to answer a next state. -/

namespace Sys2Proof.Machine

/-- 10_state.md R28: the hash state. The encoding's value 3 never occurs. -/
inductive HState where
  | idle
  | absorb
  | final
  deriving DecidableEq, Repr

/-- 60_exceptions.md R170: the command error codes. Codes 7 to 15 are reserved and never recorded. -/
inductive ErrCode where
  /-- 0: no error. -/
  | eNone
  /-- 1: w[7:0] is not an opcode. -/
  | eOpcode
  /-- 2: a reserved bit of the opcode is 1. -/
  | eRsvd
  /-- 3: NN = 0 or NN > 64. -/
  | eNn
  /-- 4: LEN > 128. -/
  | eLen
  /-- 5: HSTATE ≠ ABSORB, or LEN = 0 while T ≠ 0. -/
  | eSeq
  /-- 6: T would pass 2^64 − 1. -/
  | eCount
  deriving DecidableEq, Repr

/-- 20_memory.md R55 to R57: how the port answers an access. -/
inductive Resp where
  | ok
  | busErr
  deriving DecidableEq, Repr

/-- What the port gave the host in the last step. -/
inductive PortAnswer where
  /-- The answer to a read, with its data (60_exceptions.md R178: 0 with BUSERR). -/
  | read (resp : Resp) (data : Word)
  /-- The answer to a write. -/
  | write (resp : Resp)
  deriving DecidableEq, Repr

/-- One step of the environment, in the total order of 20_memory.md R61. Log 3 and log 4. -/
inductive Input where
  /-- The host reads `size` bytes at window offset `off` (R55, R56). -/
  | read (off : BitVec 12) (size : Nat)
  /-- The host writes `size` bytes at window offset `off` (R55, R57). `value` is the data of an 8-byte access. -/
  | write (off : BitVec 12) (size : Nat) (value : Word)
  /-- The engine has its turn (60_exceptions.md R174): it completes the running command, if there is one. -/
  | engine
  /-- The platform asserts and releases the reset input (70_reset_and_hazards.md R210): one atomic step. -/
  | reset
  /-- A host access made while the reset input is held asserted (R210: outside the model, the host must not). -/
  | accessInReset
  deriving DecidableEq, Repr

/-- The block (10_state.md R40). The last three fields are the model's own: what the environment does next, what the
port answered in the last step, and how many free values have been taken. -/
structure State where
  /-- R27: STATUS.BUSY. -/
  busy : Bool
  /-- R30: STATUS.ERR. -/
  err : Bool
  /-- R30: STATUS.ERRCODE. -/
  errcode : ErrCode
  /-- R28: STATUS.HSTATE. -/
  hstate : HState
  /-- R29: STATUS.NN, the digest length in bytes. -/
  nn : BitVec 7
  /-- R31: T, the byte counter, read at COUNT. -/
  t : Word
  /-- R32: H, the chaining value. -/
  h : Words 8
  /-- R34: M, the message buffer. -/
  m : Words 16
  /-- R35: X, the first input block of G. -/
  x : Words 128
  /-- R35: Y, the second input block of G. -/
  y : Words 128
  /-- R36: R, the result block of G. -/
  r : Words 128
  /-- R37: IRQ_EN, bit 0 DONE_EN, bit 1 ERR_EN. -/
  irqEn : BitVec 2
  /-- R38: IRQ_PEND, bit 0 DONE, bit 1 ERRP. -/
  irqPend : BitVec 2
  /-- R39: CUR, the command word accepted last, 0 when none runs. -/
  cur : Word
  /-- R39: the work vector, the working block and the engine's position. -/
  work : EngineWork
  /-- The model's own: what the environment does next, oldest first. Log 3. -/
  inputs : List Input
  /-- The model's own: what the port answered in the last step. Log 5. -/
  resp : Option PortAnswer
  /-- The model's own: how many free values of the hidden engine state have been taken. Log 6. -/
  freeCount : Nat
  deriving DecidableEq, Repr

/-- R40 and 70_reset_and_hazards.md R210: every piece of state after reset. "No value is unspecified." -/
def State.reset : State where
  busy := false
  err := false
  errcode := .eNone
  hstate := .idle
  nn := 0#7
  t := 0#64
  h := zeroWords 8
  m := zeroWords 16
  x := zeroWords 128
  y := zeroWords 128
  r := zeroWords 128
  irqEn := 0#2
  irqPend := 0#2
  cur := 0#64
  work := EngineWork.zero
  inputs := []
  resp := none
  freeCount := 0

/-- The machine never stops with a fault: 60_exceptions.md has no traps, a rejected command is a next state with ERR
set (R172) and a refused access is a next state answered BUSERR (R178). So no constructor, and no arm raises one.
Safe: nothing is left out. -/
inductive Fault
  deriving DecidableEq, Repr

/-- Where a step has no meaning. -/
inductive Refusal where
  /-- Raised by an arm of `exec` whose instruction has no meaning yet (none is left). Safe: the machine stops. -/
  | notModelled (mnemonic : String)
  /-- Raised by `step` on `Input.accessInReset`. R210: "a host access during reset is outside the model and is
  refused (the host must not make one)". Safe: the spec puts the case outside the model. -/
  | accessInReset
  deriving DecidableEq, Repr

end Sys2Proof.Machine
end

