-- ==== Sys2Proof/Machine/Operands.lean ====
section
/-! DEFINITION. The operand forms: rotations and bytes of words (00_scope.md R8 to R10), byte masking (10_state.md
R33, 40_blake2b.md R107), and the register map of the window (20_memory.md R54). -/

namespace Sys2Proof.Machine

/-- R9: `rotr(x, n)`, the source's `⋙`, for 1 ≤ n ≤ 63. -/
def rotr (x : Word) (n : Nat) : Word := (x >>> n) ||| (x <<< (64 - n))

/-- R8: byte k of a word, `w[8k+7:8k]`. -/
def byteOf (w : Word) (k : Nat) : Byte := w.extractLsb' (8 * k) 8

/-- R10: `LE64(b[0..7])`, the word whose byte k is b[k]. -/
def le64 (b : Vector Byte 8) : Word :=
  b[7] ++ b[6] ++ b[5] ++ b[4] ++ b[3] ++ b[2] ++ b[1] ++ b[0]

/-- R10: a word written as 8 bytes, least significant byte first. -/
def wordBytes (w : Word) : Vector Byte 8 := Vector.ofFn fun k => byteOf w k.val

/-- R10: `words(B)`, the n words of a byte string of 8n bytes. A missing byte is 0 (R89: LOADM zero-pads). -/
def wordsOf (n : Nat) (bytes : List Byte) : Words n :=
  Vector.ofFn fun i => le64 (Vector.ofFn fun k => bytes.getD (8 * i.val + k.val) 0#8)

/-- R10: `bytes(W)`, each word as 8 bytes, words in order. -/
def bytesOf {n : Nat} (ws : Words n) : List Byte := ws.toList.flatMap fun w => (wordBytes w).toList

/-- R10: `LE32(x)`, used by host software only. -/
def le32 (x : BitVec 32) : List Byte :=
  [x.extractLsb' 0 8, x.extractLsb' 8 8, x.extractLsb' 16 8, x.extractLsb' 24 8]

/-- The word whose byte k is byte k of `w` if `base + k < limit`, else 0: the masking of R33 and R107. -/
def keepBytes (base limit : Nat) (w : Word) : Word :=
  le64 (Vector.ofFn fun k => if base + k.val < limit then byteOf w k.val else 0#8)

/-- 20_memory.md R54: what stands at an offset of the window. -/
inductive Reg where
  | id
  | cmd
  | status
  | count
  | irqEn
  | irqPend
  | m (i : Fin 16)
  | dig (i : Fin 8)
  | x (i : Fin 128)
  | y (i : Fin 128)
  | r (i : Fin 128)
  | reserved
  deriving DecidableEq, Repr

/-- R54, by the offset's 8-byte granule. Each buffer is aligned to its own size, so the index is the granule's number
modulo the buffer's length (D2). -/
def regAt (off : BitVec 12) : Reg :=
  let a := off.toNat
  let g := a / 8
  if a < 0x008 then .id
  else if a < 0x010 then .cmd
  else if a < 0x018 then .status
  else if a < 0x020 then .count
  else if a < 0x028 then .irqEn
  else if a < 0x030 then .irqPend
  else if a < 0x080 then .reserved
  else if a < 0x100 then .m (Fin.ofNat 16 g)
  else if a < 0x140 then .dig (Fin.ofNat 8 g)
  else if a < 0x400 then .reserved
  else if a < 0x800 then .x (Fin.ofNat 128 g)
  else if a < 0xC00 then .y (Fin.ofNat 128 g)
  else .r (Fin.ofNat 128 g)

/-- R55: the port accepts only 8-byte accesses at offsets that are multiples of 8. -/
def accessFormOk (off : BitVec 12) (size : Nat) : Bool := size == 8 && off.toNat % 8 == 0

end Sys2Proof.Machine
end

