-- ==== Sys2Proof/Machine/Flags.lean ====
section
/-! DEFINITION. The status register, the interrupt bits and the digest view, each computed from the state
(10_state.md R26, R33, R38; 60_exceptions.md R170, R185). The block has no arithmetic flags (R22). -/

namespace Sys2Proof.Machine

/-- 60_exceptions.md R170, column code. -/
def ErrCode.bits : ErrCode → BitVec 4
  | .eNone => 0#4
  | .eOpcode => 1#4
  | .eRsvd => 2#4
  | .eNn => 3#4
  | .eLen => 4#4
  | .eSeq => 5#4
  | .eCount => 6#4

/-- 10_state.md R28: 0 IDLE, 1 ABSORB, 2 FINAL. -/
def HState.bits : HState → BitVec 2
  | .idle => 0#2
  | .absorb => 1#2
  | .final => 2#2

/-- R26: the STATUS register; reserved bits read 0. -/
def State.statusWord (s : State) : Word :=
  0#41 ++ s.nn ++ 0#6 ++ s.hstate.bits ++ s.errcode.bits ++ 0#2 ++ BitVec.ofBool s.err ++ BitVec.ofBool s.busy

/-- R33: the digest registers, masked to NN bytes, and 0 unless HSTATE = FINAL. -/
def State.dig (s : State) (i : Fin 8) : Word :=
  match s.hstate with
  | .final => keepBytes (8 * i.val) s.nn.toNat s.h[i]
  | .idle => 0#64
  | .absorb => 0#64

/-- R33 and 40_blake2b.md R106: `bytes(DIG[0..7])[0..NN−1]`. -/
def State.digest (s : State) : List Byte := (bytesOf (Vector.ofFn s.dig)).take s.nn.toNat

/-- 60_exceptions.md R174: DONE is set by a completion. -/
def setDone (p : BitVec 2) : BitVec 2 := p ||| 1#2

/-- R172: ERRP is set by a rejection. -/
def setErrp (p : BitVec 2) : BitVec 2 := p ||| 2#2

/-- 20_memory.md R57: a write of `v` to IRQ_PEND clears each bit in 1:0 that `v` has as 1. -/
def clearPend (p : BitVec 2) (v : Word) : BitVec 2 := p &&& ~~~(v.extractLsb' 0 2)

/-- R185: the interrupt output, a level, a function of the state. -/
def State.irq (s : State) : Bool :=
  (s.irqPend.getLsbD 0 && s.irqEn.getLsbD 0) || (s.irqPend.getLsbD 1 && s.irqEn.getLsbD 1)

end Sys2Proof.Machine
end

