-- ==== Sys2Proof/Machine/Ops.lean ====
section
/-! DEFINITION. The shared operations: the check of a command and the error entry (60_exceptions.md R172), acceptance
(R171), completion (R174), host reads and writes of the window (20_memory.md R55 to R59), and reset
(70_reset_and_hazards.md R210). -/

namespace Sys2Proof.Machine

/-- The code of a word that decodes to no command (R172). -/
def decodeErrCode : DecodeError → ErrCode
  | .badOpcode => .eOpcode
  | .reservedBits => .eRsvd

/-- R172 from E_NN on: the checks of a decoded command, in the rule's order. The first that fails gives the code. -/
def checkInstr (i : Instr) (s : State) : ErrCode :=
  match i with
  | .init64 => .eNone
  | .initv nn => if nn = 0#8 ∨ 64 < nn.toNat then .eNn else .eNone
  | .block =>
    if s.hstate ≠ .absorb then .eSeq
    else if 2 ^ 64 - 1 - 128 < s.t.toNat then .eCount
    else .eNone
  | .last len =>
    if 128 < len.toNat then .eLen
    else if s.hstate ≠ .absorb then .eSeq
    else if len = 0#8 ∧ s.t ≠ 0#64 then .eSeq
    else if 2 ^ 64 - 1 - len.toNat < s.t.toNat then .eCount
    else .eNone
  | .gcomp => .eNone
  | .zeroize => .eNone
  | .ack => .eNone

/-- R172: `Check(w)`. -/
def checkWord (w : Word) (s : State) : ErrCode :=
  match decode w with
  | .error e => decodeErrCode e
  | .ok i => checkInstr i s

/-- R172: `raise CmdError(e)`, the error entry: the first code is kept, ERR and ERRP are set, nothing else changes. -/
def State.raiseCmdError (s : State) (e : ErrCode) : State :=
  { s with
    errcode := if s.err then s.errcode else e
    err := true
    irqPend := setErrp s.irqPend }

/-- R171: a command is accepted; its word is latched into CUR. From here to completion the hidden engine state has
any value (I24), so it takes the next free one. DESIGN CHOICE (log 6): a completion leaves in place whatever part of
that value its command does not write, so v and Q keep it after INIT64, INITV and ACK, Q after BLOCK and LAST, v after
GCOMP. The spec fixes no such value. -/
def State.acceptCommand (s : State) (w : Word) : State :=
  { s with
    busy := true
    cur := w
    work := Config.freeWork s.freeCount
    freeCount := s.freeCount + 1 }

/-- R171 and R176: while ERR = 1 only the opcodes of ZEROIZE and ACK are looked at. -/
def isRecoveryOp (w : Word) : Bool := opField w == 0x0E#8 || opField w == 0x0F#8

/-- R171: `IssueCommand(w)`. -/
def State.issueCommand (s : State) (w : Word) : State × Resp :=
  if s.busy then (s, .busErr)
  else if s.err && !isRecoveryOp w then (s, .busErr)
  else match checkWord w s with
    | .eNone => (s.acceptCommand w, .ok)
    | .eOpcode => (s.raiseCmdError .eOpcode, .ok)
    | .eRsvd => (s.raiseCmdError .eRsvd, .ok)
    | .eNn => (s.raiseCmdError .eNn, .ok)
    | .eLen => (s.raiseCmdError .eLen, .ok)
    | .eSeq => (s.raiseCmdError .eSeq, .ok)
    | .eCount => (s.raiseCmdError .eCount, .ok)

/-- R174, after the command's own effect: BUSY <- 0, CUR <- 0, DONE <- 1. No command runs, so the engine stands at
position 0 again, and what the command did not write of v and Q stays (log 6). -/
def State.finishCommand (s : State) : State :=
  { s with
    busy := false
    cur := 0#64
    irqPend := setDone s.irqPend
    work := { s.work with progress := 0 } }

/-- A command that its check turns away at the engine: none of its effect, the error entry of R172, and the engine is
free. No state a run reaches comes here, since every check was made at acceptance (R174) and nothing it read can
change while BUSY = 1 (R59). Log 7. -/
def State.rejectRunning (s : State) (e : ErrCode) : State :=
  { s with
    busy := false
    cur := 0#64
    work := { s.work with progress := 0 } }.raiseCmdError e

/-- What every command does (R172, R174): its check, then its whole effect at once and the completion. -/
def runCommand (i : Instr) (effect : State → State) (s : State) : Host.Outcome State Fault Refusal :=
  match checkInstr i s with
  | .eNone => .next (effect s).finishCommand
  | .eOpcode => .next (s.rejectRunning .eOpcode)
  | .eRsvd => .next (s.rejectRunning .eRsvd)
  | .eNn => .next (s.rejectRunning .eNn)
  | .eLen => .next (s.rejectRunning .eLen)
  | .eSeq => .next (s.rejectRunning .eSeq)
  | .eCount => .next (s.rejectRunning .eCount)

/-- 20_memory.md R56: what a read of a register answers; R58 for a reserved offset, R59 while BUSY = 1. -/
def State.readReg (s : State) (g : Reg) : Resp × Word :=
  match g with
  | .id => (.ok, Config.idValue)
  | .cmd => (.ok, 0#64)
  | .status => (.ok, s.statusWord)
  | .count => (.ok, s.t)
  | .irqEn => (.ok, s.irqEn.setWidth 64)
  | .irqPend => (.ok, s.irqPend.setWidth 64)
  | .reserved => (.busErr, 0#64)
  | .m i => if s.busy then (.busErr, 0#64) else (.ok, s.m[i])
  | .dig i => if s.busy then (.busErr, 0#64) else (.ok, s.dig i)
  | .x i => if s.busy then (.busErr, 0#64) else (.ok, s.x[i])
  | .y i => if s.busy then (.busErr, 0#64) else (.ok, s.y[i])
  | .r i => if s.busy then (.busErr, 0#64) else (.ok, s.r[i])

/-- R57: what a write of `v` to a register does and answers; R58 for a read-only or reserved one, R59 while BUSY. -/
def State.writeReg (s : State) (g : Reg) (v : Word) : State × Resp :=
  match g with
  | .cmd => s.issueCommand v
  | .irqEn => ({ s with irqEn := v.extractLsb' 0 2 }, .ok)
  | .irqPend => ({ s with irqPend := clearPend s.irqPend v }, .ok)
  | .id => (s, .busErr)
  | .status => (s, .busErr)
  | .count => (s, .busErr)
  | .reserved => (s, .busErr)
  | .dig _ => (s, .busErr)
  | .r _ => (s, .busErr)
  | .m i => if s.busy then (s, .busErr) else ({ s with m := s.m.set i v }, .ok)
  | .x i => if s.busy then (s, .busErr) else ({ s with x := s.x.set i v }, .ok)
  | .y i => if s.busy then (s, .busErr) else ({ s with y := s.y.set i v }, .ok)

/-- R55 and R56: `MemRead(off, size)`. A read changes no state. -/
def State.memRead (s : State) (off : BitVec 12) (size : Nat) : Resp × Word :=
  if accessFormOk off size then s.readReg (regAt off) else (.busErr, 0#64)

/-- R55 and R57: `MemWrite(off, size, v)`. A refused write changes nothing. -/
def State.memWrite (s : State) (off : BitVec 12) (size : Nat) (v : Word) : State × Resp :=
  if accessFormOk off size then s.writeReg (regAt off) v else (s, .busErr)

/-- The byte of the window at offset `off`: byte `off mod 8` of the register there, as a read would give it were the
engine idle. The model's one view of the window by bytes; the port itself has no narrow access (R55). -/
def State.windowByte (s : State) (off : BitVec 12) : Byte :=
  byteOf ({ s with busy := false }.readReg (regAt off)).2 (off.toNat % 8)

/-- R210, R211: every piece of state takes its reset value, a running command is abandoned. What the environment does
next is not the block's, and the count of free values goes on (log 6). -/
def State.resetStep (s : State) : State :=
  { State.reset with inputs := s.inputs, freeCount := s.freeCount }

end Sys2Proof.Machine
end

