-- ==== Sys2Proof/Machine/Blake2b.lean ====
section
/-! DEFINITION. BLAKE2b (40_blake2b.md): the functions of R100 to R107 and the commands INIT64, INITV, BLOCK and LAST
(R110 to R113). -/

namespace Sys2Proof.Machine

/-- R100: the initialisation vector. -/
def iv : Words 8 :=
  #v[0x6A09E667F3BCC908#64, 0xBB67AE8584CAA73B#64, 0x3C6EF372FE94F82B#64, 0xA54FF53A5F1D36F1#64,
     0x510E527FADE682D1#64, 0x9B05688C2B3E6C1F#64, 0x1F83D9ABFB41BD6B#64, 0x5BE0CD19137E2179#64]

/-- R101: the message schedule, ten rows. -/
def sigma : Vector (Vector (Fin 16) 16) 10 :=
  #v[#v[0, 1, 2, 3, 4, 5, 6, 7, 8, 9, 10, 11, 12, 13, 14, 15],
     #v[14, 10, 4, 8, 9, 15, 13, 6, 1, 12, 0, 2, 11, 7, 5, 3],
     #v[11, 8, 12, 0, 5, 2, 15, 13, 10, 14, 3, 6, 7, 1, 9, 4],
     #v[7, 9, 3, 1, 13, 12, 11, 14, 2, 6, 5, 10, 4, 0, 15, 8],
     #v[9, 0, 5, 7, 2, 4, 10, 15, 14, 1, 11, 12, 6, 8, 3, 13],
     #v[2, 12, 6, 10, 0, 11, 8, 3, 4, 13, 7, 5, 15, 14, 1, 9],
     #v[12, 5, 1, 15, 14, 13, 4, 10, 0, 7, 6, 3, 9, 2, 8, 11],
     #v[13, 11, 7, 14, 12, 1, 3, 9, 5, 0, 15, 4, 8, 6, 2, 10],
     #v[6, 15, 14, 9, 11, 3, 0, 8, 12, 2, 13, 7, 1, 4, 10, 5],
     #v[10, 2, 8, 4, 7, 6, 1, 5, 15, 11, 9, 14, 3, 12, 13, 0]]

/-- R101: round r uses row r mod 10. -/
def sigmaRow (r : Nat) : Vector (Fin 16) 16 := sigma[r % 10]'(Nat.mod_lt r (by decide))

/-- R102: the four work-vector places of one step. -/
structure Quad where
  a : Fin 16
  b : Fin 16
  c : Fin 16
  d : Fin 16
  deriving DecidableEq, Repr

/-- R102: the eight steps, four on columns and four on diagonals; R142 uses the same eight. -/
def quads : Vector Quad 8 :=
  #v[⟨0, 4, 8, 12⟩, ⟨1, 5, 9, 13⟩, ⟨2, 6, 10, 14⟩, ⟨3, 7, 11, 15⟩,
     ⟨0, 5, 10, 15⟩, ⟨1, 6, 11, 12⟩, ⟨2, 7, 8, 13⟩, ⟨3, 4, 9, 14⟩]

/-- R103: the mixing function MIX with message words x and y. -/
def mix (v : Words 16) (q : Quad) (x y : Word) : Words 16 :=
  let v := v.set q.a (v[q.a] + v[q.b] + x)
  let v := v.set q.d (rotr (v[q.d] ^^^ v[q.a]) 32)
  let v := v.set q.c (v[q.c] + v[q.d])
  let v := v.set q.b (rotr (v[q.b] ^^^ v[q.c]) 24)
  let v := v.set q.a (v[q.a] + v[q.b] + y)
  let v := v.set q.d (rotr (v[q.d] ^^^ v[q.a]) 16)
  let v := v.set q.c (v[q.c] + v[q.d])
  v.set q.b (rotr (v[q.b] ^^^ v[q.c]) 63)

/-- R104, loop body: step k of round r takes the message words 2k and 2k+1 of the round's row. -/
def roundStep (m : Words 16) (r : Nat) (v : Words 16) (k : Fin 8) : Words 16 :=
  let s := sigmaRow r
  mix v quads[k] m[s[2 * k.val]] m[s[2 * k.val + 1]]

/-- R104: round r, the eight steps in order. -/
def roundF (m : Words 16) (v : Words 16) (r : Nat) : Words 16 := (List.finRange 8).foldl (roundStep m r) v

/-- R104: the work vector before the first round. The counter's high half is 0 (R108), so v[13] stays. -/
def workInit (h : Words 8) (t : Word) (f : Bool) : Words 16 :=
  let v : Words 16 := Vector.ofFn fun i => if hi : i.val < 8 then h[i.val] else iv[i.val - 8]
  let v := v.set 12 (v[12] ^^^ t)
  if f then v.set 14 (v[14] ^^^ allOnes) else v

/-- R104: the work vector after the twelve rounds. -/
def workRounds (h : Words 8) (m : Words 16) (t : Word) (f : Bool) : Words 16 :=
  (List.range 12).foldl (roundF m) (workInit h t f)

/-- R104, last loop: h'[i] = h[i] ^ v[i] ^ v[i+8]. -/
def foldWork (h : Words 8) (v : Words 16) : Words 8 :=
  Vector.ofFn fun i => h[i] ^^^ v[i.val] ^^^ v[i.val + 8]

/-- R104: the compression F. -/
def compress (h : Words 8) (m : Words 16) (t : Word) (f : Bool) : Words 8 :=
  foldWork h (workRounds h m t f)

/-- R105: the initial chaining value for digest length nn. -/
def hinit (nn : BitVec 7) : Words 8 := iv.set 0 (iv[0] ^^^ 0x0000000001010000#64 ^^^ nn.setWidth 64)

/-- R107: the final block, every byte at index len or above replaced by 0. -/
def pad (m : Words 16) (len : Nat) : Words 16 := Vector.ofFn fun i => keepBytes (8 * i.val) len m[i]

/-- R110, R111: a hash with an nn-byte digest begins. -/
def initEffect (nn : BitVec 7) (s : State) : State :=
  { s with h := hinit nn, t := 0#64, nn := nn, hstate := .absorb }

/-- R112: BLOCK. The hidden work vector is left as the rounds leave it (R39, R104; log 6). -/
def blockEffect (s : State) : State :=
  let t := s.t + 128#64
  { s with
    t := t
    h := compress s.h s.m t false
    work := { s.work with v := workRounds s.h s.m t false } }

/-- R113: LAST. -/
def lastEffect (len : BitVec 8) (s : State) : State :=
  let t := s.t + len.setWidth 64
  let m := pad s.m len.toNat
  { s with
    t := t
    h := compress s.h m t true
    hstate := .final
    work := { s.work with v := workRounds s.h m t true } }

/-- R110: INIT64. -/
def execInit64 (s : State) : Host.Outcome State Fault Refusal := runCommand .init64 (initEffect 64#7) s

/-- R111: INITV nn. -/
def execInitv (nn : BitVec 8) (s : State) : Host.Outcome State Fault Refusal :=
  runCommand (.initv nn) (initEffect (nn.setWidth 7)) s

/-- R112: BLOCK. -/
def execBlock (s : State) : Host.Outcome State Fault Refusal := runCommand .block blockEffect s

/-- R113: LAST len. -/
def execLast (len : BitVec 8) (s : State) : Host.Outcome State Fault Refusal :=
  runCommand (.last len) (lastEffect len) s

end Sys2Proof.Machine
end

