-- ==== Sys2Proof/Machine/Control.lean ====
section
/-! DEFINITION. The control commands (42_control.md): ZEROIZE (R160) and ACK (R161), the return from the error state. -/

namespace Sys2Proof.Machine

/-- R160: every data register and buffer is overwritten with zero; ERR, ERRCODE, IRQ_EN and IRQ_PEND are kept. -/
def zeroizeEffect (s : State) : State :=
  { s with
    h := zeroWords 8
    t := 0#64
    nn := 0#7
    hstate := .idle
    m := zeroWords 16
    x := zeroWords 128
    y := zeroWords 128
    r := zeroWords 128
    work := { s.work with v := zeroWords 16, q := zeroWords 128 } }

/-- R161: the error state is left. -/
def ackEffect (s : State) : State := { s with err := false, errcode := .eNone }

/-- R160: ZEROIZE. -/
def execZeroize (s : State) : Host.Outcome State Fault Refusal := runCommand .zeroize zeroizeEffect s

/-- R161: ACK. -/
def execAck (s : State) : Host.Outcome State Fault Refusal := runCommand .ack ackEffect s

end Sys2Proof.Machine
end

