-- ==== Sys2Proof/Machine/GComp.lean ====
section
/-! DEFINITION. The Argon2 block compression G (41_gcomp.md): FBL, GB, P and G (R140 to R143) and the command GCOMP
(R146). -/

namespace Sys2Proof.Machine

/-- The low half of a word, zero-extended (R140: `zext_64(x[31:0])`). -/
def lo32 (x : Word) : Word := (x.extractLsb' 0 32).setWidth 64

/-- R140: FBL. The doubling can carry out of bit 63 and the carry is discarded (90_conflicts.md C2). -/
def fbl (x y : Word) : Word := x + y + 2#64 * (lo32 x * lo32 y)

/-- R141: the quarter-round GB. -/
def gb (v : Words 16) (q : Quad) : Words 16 :=
  let v := v.set q.a (fbl v[q.a] v[q.b])
  let v := v.set q.d (rotr (v[q.d] ^^^ v[q.a]) 32)
  let v := v.set q.c (fbl v[q.c] v[q.d])
  let v := v.set q.b (rotr (v[q.b] ^^^ v[q.c]) 24)
  let v := v.set q.a (fbl v[q.a] v[q.b])
  let v := v.set q.d (rotr (v[q.d] ^^^ v[q.a]) 16)
  let v := v.set q.c (fbl v[q.c] v[q.d])
  v.set q.b (rotr (v[q.b] ^^^ v[q.c]) 63)

/-- R142: the permutation P, eight GB steps in order. -/
def permP (v : Words 16) : Words 16 := quads.toList.foldl gb v

/-- R143, step 2: the sixteen words of row i. -/
def rowIndex (i : Fin 8) (k : Fin 16) : Fin 128 := Fin.ofNat 128 (16 * i.val + k.val)

/-- R143, step 3: the sixteen words of column i, v[2k] = Q[16k + 2i] and v[2k+1] = Q[16k + 2i + 1]. -/
def colIndex (i : Fin 8) (k : Fin 16) : Fin 128 := Fin.ofNat 128 (16 * (k.val / 2) + 2 * i.val + k.val % 2)

/-- R143: one invocation of P on sixteen words of Q; it writes back only those. -/
def permAt (ix : Fin 16 → Fin 128) (q : Words 128) : Words 128 :=
  let p := permP (Vector.ofFn fun k => q[ix k])
  (List.finRange 16).foldl (fun q k => q.set (ix k) p[k]) q

/-- R143, steps 2 and 3: all rows, then all columns. -/
def permBlock (q : Words 128) : Words 128 :=
  let q := (List.finRange 8).foldl (fun q i => permAt (rowIndex i) q) q
  (List.finRange 8).foldl (fun q i => permAt (colIndex i) q) q

/-- R143: word-wise exclusive or of two blocks. -/
def xorBlock (x y : Words 128) : Words 128 := Vector.ofFn fun i => x[i] ^^^ y[i]

/-- R143: the block compression G. -/
def gFun (x y : Words 128) : Words 128 :=
  let rx := xorBlock x y
  xorBlock (permBlock rx) rx

/-- R146: GCOMP. The hidden working block is left as the columns leave it (R39, R143; log 6). -/
def gcompEffect (s : State) : State :=
  { s with
    r := gFun s.x s.y
    work := { s.work with q := permBlock (xorBlock s.x s.y) } }

/-- R146: GCOMP. -/
def execGcomp (s : State) : Host.Outcome State Fault Refusal := runCommand .gcomp gcompEffect s

end Sys2Proof.Machine
end

