-- ==== Sys2Proof/Machine/Dispatch.lean ====
section
/-! DEFINITION. What each command does, one arm per constructor of Instr. -/

namespace Sys2Proof.Machine

/-- Command i carried out on s by the engine: its check (60_exceptions.md R172), its rule's whole effect, and the
completion (R174). -/
def exec (i : Instr) (s : State) : Host.Outcome State Fault Refusal :=
  match i with
  | .init64 => Sys2Proof.Machine.execInit64 s
  | .initv nn => Sys2Proof.Machine.execInitv nn s
  | .block => Sys2Proof.Machine.execBlock s
  | .last len => Sys2Proof.Machine.execLast len s
  | .gcomp => Sys2Proof.Machine.execGcomp s
  | .zeroize => Sys2Proof.Machine.execZeroize s
  | .ack => Sys2Proof.Machine.execAck s

end Sys2Proof.Machine
end

