-- ==== Sys2Proof/Machine/Engine.lean ====
section
/-! DEFINITION. The steps of the three agents (00_scope.md R6): the engine's turn (60_exceptions.md R174), a host
access (20_memory.md R61), the reset input (70_reset_and_hazards.md R210). -/

namespace Sys2Proof.Machine

/-- R174: `Complete()`, enabled only when BUSY = 1: the latched word is decoded and its command carried out. A turn
with BUSY = 0 changes nothing. A latched word that decodes to no command is turned away as R172 would (log 7). -/
def engineTurn (s : State) : Host.Outcome State Fault Refusal :=
  if s.busy then
    match decode s.cur with
    | .ok i => exec i s
    | .error e => .next (s.rejectRunning (decodeErrCode e))
  else .next s

/-- A host read (R56): the port answers, nothing else changes. -/
def hostRead (off : BitVec 12) (size : Nat) (s : State) : State :=
  { s with resp := some (.read (s.memRead off size).1 (s.memRead off size).2) }

/-- A host write (R57) and the port's answer. -/
def hostWrite (off : BitVec 12) (size : Nat) (v : Word) (s : State) : State :=
  { (s.memWrite off size v).1 with resp := some (.write (s.memWrite off size v).2) }

/-- One input of the environment's order (R61), on a state it has been taken from. -/
def takeInput (a : Input) (s : State) : Host.Outcome State Fault Refusal :=
  match a with
  | .read off size => .next (hostRead off size s)
  | .write off size v => .next (hostWrite off size v s)
  | .engine => engineTurn s
  | .reset => .next s.resetStep
  | .accessInReset => .refused .accessInReset

/-- The state as a step begins: the rest of the order remains, and the port has answered nothing yet. -/
def State.begin (s : State) (rest : List Input) : State := { s with inputs := rest, resp := none }

end Sys2Proof.Machine
end

