-- ==== Sys2Proof/Machine/Step.lean ====
section
/-! DEFINITION. One step of the block: the next input of the environment's order, or, when none is pending, the
engine's turn (weak fairness, 70_reset_and_hazards.md R222). -/

namespace Sys2Proof.Machine

/-- One atomic step in the total order of 20_memory.md R61. Log 3 and log 4. -/
def step (s : State) : Host.Outcome State Fault Refusal :=
  match s.inputs with
  | [] => engineTurn (s.begin [])
  | a :: rest => takeInput a (s.begin rest)

/-- `s` with the command word `w` latched in CUR, BUSY = 1 and the engine's turn next: the block captures a command
there (20_memory.md R64) and runs it from there (10_state.md R20), so the very next step runs exactly it. This stands
for the acceptance of a CMD write (60_exceptions.md R171). Log 8. -/
def State.withFetchWord (s : State) (nbits w : Nat) : State :=
  { s with busy := true, cur := BitVec.ofNat 64 (w % 2 ^ nbits), inputs := .engine :: s.inputs }

end Sys2Proof.Machine
end

