-- ==== Sys2Proof/Machine/Host.lean ====
section
/-! DEFINITION. The host and the platform around the block: the assembler's lines and pseudo-instructions as the
inputs they stand for (30_encoding.md R88, R89; 40_blake2b.md R114), and what the OPEN parameters mean (20_memory.md
R51, R61; 60_exceptions.md R178, R185; 70_reset_and_hazards.md R221). `step` reads nothing of this file. -/

namespace Sys2Proof.Machine

/-- R88: one line of a host program. -/
inductive HostLine where
  /-- A command mnemonic: the write of its word to CMD. -/
  | cmd (i : Instr)
  /-- `WR off, value`. -/
  | wr (off : BitVec 12) (value : Word)
  /-- `RD off`. -/
  | rd (off : BitVec 12)
  /-- `WAIT`: STATUS is read until BUSY = 0; here `polls` reads come before the engine completes, one after. -/
  | wait (polls : Nat)
  deriving DecidableEq, Repr

/-- The offsets of R54 a host program names. -/
def offCmd : BitVec 12 := 0x008#12
def offStatus : BitVec 12 := 0x010#12
def offIrqPend : BitVec 12 := 0x028#12
def offM (i : Fin 16) : BitVec 12 := BitVec.ofNat 12 (0x080 + 8 * i.val)
def offDig (i : Fin 8) : BitVec 12 := BitVec.ofNat 12 (0x100 + 8 * i.val)
def offX (i : Fin 128) : BitVec 12 := BitVec.ofNat 12 (0x400 + 8 * i.val)
def offY (i : Fin 128) : BitVec 12 := BitVec.ofNat 12 (0x800 + 8 * i.val)
def offR (i : Fin 128) : BitVec 12 := BitVec.ofNat 12 (0xC00 + 8 * i.val)

/-- R88: the steps a line stands for. -/
def HostLine.toInputs : HostLine → List Input
  | .cmd i => [.write offCmd 8 (encode i)]
  | .wr off v => [.write off 8 v]
  | .rd off => [.read off 8]
  | .wait polls => List.replicate polls (.read offStatus 8) ++ [.engine, .read offStatus 8]

/-- The steps of a program, in the host's program order (42_control.md R162). -/
def programInputs (p : List HostLine) : List Input := p.flatMap HostLine.toInputs

/-- R89: NOP. -/
def lineNop : List HostLine := [.cmd .ack]

/-- R89: CMDW op, one command waited out. -/
def lineCmdw (i : Instr) : List HostLine := [.cmd i, .wait 0]

/-- R89: LOADM, a 128-byte block packed little-endian (20_memory.md R52), zero-padded. -/
def lineLoadM (bytes : List Byte) : List HostLine :=
  (List.finRange 16).map fun i => .wr (offM i) (wordsOf 16 bytes)[i]

/-- R89: LOADX, a 1024-byte block (20_memory.md R53). -/
def lineLoadX (bytes : List Byte) : List HostLine :=
  (List.finRange 128).map fun i => .wr (offX i) (wordsOf 128 bytes)[i]

/-- R89: LOADY. -/
def lineLoadY (bytes : List Byte) : List HostLine :=
  (List.finRange 128).map fun i => .wr (offY i) (wordsOf 128 bytes)[i]

/-- R89: GFUN, a G computation and the read of its result. -/
def lineGfun : List HostLine := lineCmdw .gcomp ++ (List.finRange 128).map fun i => .rd (offR i)

/-- R114: the number of compressions of an n-byte message, max(1, ceil(n / 128)). -/
def blockCount (n : Nat) : Nat := max 1 ((n + 127) / 128)

/-- R114 and R89: HASH nn, msg. -/
def lineHash (nn : BitVec 8) (msg : List Byte) : List HostLine :=
  let k := blockCount msg.length
  let start := if nn = 64#8 then Instr.init64 else Instr.initv nn
  let full := (List.range (k - 1)).flatMap fun j =>
    lineLoadM ((msg.drop (128 * j)).take 128) ++ lineCmdw .block
  let tail := msg.drop (128 * (k - 1))
  lineCmdw start ++ full ++ lineLoadM tail ++ lineCmdw (.last (BitVec.ofNat 8 tail.length))
    ++ (List.finRange 8).map fun i => .rd (offDig i)

/-- R89: HASH64 msg. -/
def lineHash64 (msg : List Byte) : List HostLine := lineHash 64#8 msg

/-- R51: the window offset a host access at system address `a` reaches; none where the block does not see it. -/
def windowOffset (p : Platform) (a : Nat) : Option (BitVec 12) :=
  if p.base ≤ a ∧ a < p.base + 4096 then some (BitVec.ofNat 12 (a - p.base)) else none

/-- R221: the latency of a command, a function of the opcode alone. -/
def latency (p : Platform) : Opcode → Nat
  | .init64 => p.latInit
  | .initv => p.latInit
  | .block => p.latBlock
  | .last => p.latLast
  | .gcomp => p.latGcomp
  | .zeroize => p.latZeroize
  | .ack => p.latAck

/-- R61: the orders in which a host's accesses may reach the port: its program order when HOST_ORDERED. -/
def mayArrive (p : Platform) (program arrived : List Input) : Bool :=
  if p.hostOrdered then arrived == program else arrived.isPerm program

/-- R178: how the host sees an answer of the port; nothing to see with OK. -/
def seenAs (p : Platform) : Resp → Option BusErrView
  | .ok => none
  | .busErr => some p.busErrToHost

/-- R185: whether the block raises interrupt line `line` of the platform. -/
def raisesLine (p : Platform) (s : State) (line : Nat) : Bool := s.irq && line == p.irqLine

end Sys2Proof.Machine
end

