-- ==== Sys2Proof/Safety.lean ====
section
/-! DEFINITION. The terms claims use: the invariant of the block, the hidden state, and what one host access or one
completion is. -/

namespace Sys2Proof.Machine

/-- What the rules keep true of every state the block can reach. -/
structure State.Inv (s : State) : Prop where
  /-- R28, R29: NN is 0 exactly in IDLE. -/
  nn_idle : s.hstate = .idle ↔ s.nn = 0#7
  /-- R29: NN is at most 64. -/
  nn_range : s.nn.toNat ≤ 64
  /-- R30, R161, R172: ERRCODE is E_NONE exactly while ERR = 0. -/
  err_code : s.err = false ↔ s.errcode = .eNone
  /-- R174: CUR is 0 when no command runs. -/
  cur_idle : s.busy = false → s.cur = 0#64
  /-- R171, R174: the running command would pass its check again: nothing it depends on has changed. -/
  running_checked : s.busy = true → checkWord s.cur s = .eNone
  /-- R171, R176: while an error is recorded only ZEROIZE or ACK runs. -/
  running_err : s.busy = true → s.err = true → isRecoveryOp s.cur = true
  /-- R40, R160: in IDLE the byte counter and the chaining value are 0. -/
  idle_clear : s.hstate = .idle → s.t = 0#64 ∧ s.h = zeroWords 8
  /-- R110 to R112: in ABSORB the byte counter counts whole blocks. -/
  absorb_count : s.hstate = .absorb → s.t.toNat % 128 = 0

/-- R39: two states alike but for the hidden engine state. -/
def sameButHidden (s t : State) : Prop := { s with work := t.work, freeCount := t.freeCount } = t

/-- R39, lifted to what a step answers. -/
def sameOutcomeButHidden : Host.Outcome State Fault Refusal → Host.Outcome State Fault Refusal → Prop
  | .next s, .next t => sameButHidden s t
  | .fault a, .fault b => a = b
  | .refused a, .refused b => a = b
  | .next _, .fault _ => False
  | .next _, .refused _ => False
  | .fault _, .next _ => False
  | .fault _, .refused _ => False
  | .refused _, .next _ => False
  | .refused _, .fault _ => False

/-- A step of the host (R6): a read or a write. -/
def Input.isHost : Input → Bool
  | .read _ _ => true
  | .write _ _ _ => true
  | .engine => false
  | .reset => false
  | .accessInReset => false

/-- The step about to be taken is the engine's (R174, R222): its turn in the order, or nothing else pending. -/
def State.engineNext (s : State) : Bool :=
  match s.inputs with
  | [] => true
  | .engine :: _ => true
  | .read _ _ :: _ => false
  | .write _ _ _ :: _ => false
  | .reset :: _ => false
  | .accessInReset :: _ => false

/-- What remains of the environment's order after one step. -/
def State.laterInputs (s : State) : List Input := s.inputs.tail

end Sys2Proof.Machine
end

