-- ==== Sys2Proof/WellFormed.lean ====
section
/-! DEFINITION. Which commands have legal fields (30_encoding.md R84): NN in 1..64, LEN in 0..128. -/

namespace Sys2Proof

/-- R84: "NN is legal in 1..64 and LEN in 0..128; other values are rejected". -/
def Instr.wf : Instr → Bool
  | .initv nn => decide (1 ≤ nn.toNat) && decide (nn.toNat ≤ 64)
  | .last len => decide (len.toNat ≤ 128)
  | .init64 => true
  | .block => true
  | .gcomp => true
  | .zeroize => true
  | .ack => true

end Sys2Proof
end

