-- ==== Sys2Proof/Certificates/Slice0/Obligations.lean ====
section
/-! DEFINITION. The statements for the provers, from the numbered rules of spec/. -/

open Sys2Proof Sys2Proof.Machine

/-! ### Encoding (30_encoding.md) -/

/-- R81, R85, R88: the word written for a command decodes to that command, with every field at every value. -/
def Obligations.EncodedCommandDecodesBack : Prop :=
  ∀ i : Instr, decode (encode i) = .ok i

/-- R83 ("No reserved bit is ignored"), R87: a word that decodes to a command is the one word of that command. -/
def Obligations.DecodedWordIsItsEncoding : Prop :=
  ∀ (w : Word) (i : Instr), decode w = .ok i → encode i = w

/-- R85: words written out from the opcode map, one per row, decode to their commands. -/
def Obligations.RowWordsDecode : Prop :=
  decode 0x0000000000000001#64 = .ok .init64
    ∧ decode 0x0000000000002002#64 = .ok (.initv 32#8)
    ∧ decode 0x0000000000000003#64 = .ok .block
    ∧ decode 0x0000000000030004#64 = .ok (.last 3#8)
    ∧ decode 0x0000000000000008#64 = .ok .gcomp
    ∧ decode 0x000000000000000E#64 = .ok .zeroize
    ∧ decode 0x000000000000000F#64 = .ok .ack

/-- R82, R86: which words decode to no command, and why, in the bits of the word. -/
def Obligations.DecoderRejectsByReservedBitsAndOpcode : Prop :=
  ∀ w : Word,
    (decode w = .error .badOpcode ↔
      w.extractLsb' 0 8 ∉ [0x01#8, 0x02#8, 0x03#8, 0x04#8, 0x08#8, 0x0E#8, 0x0F#8])
    ∧ (decode w = .error .reservedBits ↔
      (w.extractLsb' 0 8 ∈ [0x01#8, 0x03#8, 0x08#8, 0x0E#8, 0x0F#8] ∧ w.extractLsb' 8 56 ≠ 0#56)
      ∨ (w.extractLsb' 0 8 = 0x02#8 ∧ w.extractLsb' 16 48 ≠ 0#48)
      ∨ (w.extractLsb' 0 8 = 0x04#8 ∧ (w.extractLsb' 8 8 ≠ 0#8 ∨ w.extractLsb' 24 40 ≠ 0#40)))

/-! ### Issuing a command (60_exceptions.md) -/

/-- R171: a host write of w to CMD. The hidden engine state of an accepted command is open (I24). -/
def Obligations.CommandWriteFollowsIssueRule : Prop :=
  ∀ (s : State) (w : Word),
    (s.busy = true → s.memWrite 0x008#12 8 w = (s, .busErr))
    ∧ (s.busy = false → s.err = true → w.extractLsb' 0 8 ≠ 0x0E#8 → w.extractLsb' 0 8 ≠ 0x0F#8 →
        s.memWrite 0x008#12 8 w = (s, .busErr))
    ∧ (s.busy = false → (s.err = false ∨ w.extractLsb' 0 8 = 0x0E#8 ∨ w.extractLsb' 0 8 = 0x0F#8) →
        checkWord w s ≠ .eNone →
        s.memWrite 0x008#12 8 w = (s.raiseCmdError (checkWord w s), .ok)
          ∧ (s.raiseCmdError (checkWord w s)).err = true)
    ∧ (s.busy = false → (s.err = false ∨ w.extractLsb' 0 8 = 0x0E#8 ∨ w.extractLsb' 0 8 = 0x0F#8) →
        checkWord w s = .eNone →
        ∃ (k : EngineWork) (n : Nat),
          s.memWrite 0x008#12 8 w = ({ s with busy := true, cur := w, work := k, freeCount := n }, .ok))

/-- R172: the checks in the rule's order and in the bits of the word, and the error entry. -/
def Obligations.CheckAndErrorEntryFollowRule : Prop :=
  (∀ (s : State) (w : Word),
    checkWord w s =
      (let op := w.extractLsb' 0 8
       let nn := w.extractLsb' 8 8
       let len := w.extractLsb' 16 8
       if op ∉ [0x01#8, 0x02#8, 0x03#8, 0x04#8, 0x08#8, 0x0E#8, 0x0F#8] then .eOpcode
       else if op ∉ [0x02#8, 0x04#8] ∧ w &&& 0xFFFFFFFFFFFFFFFF#64 ≠ op.setWidth 64 then .eRsvd
       else if op = 0x02#8 ∧ w &&& 0xFFFFFFFFFFFF00FF#64 ≠ 0x02#64 then .eRsvd
       else if op = 0x04#8 ∧ w &&& 0xFFFFFFFFFF00FFFF#64 ≠ 0x04#64 then .eRsvd
       else if op = 0x02#8 ∧ (nn = 0#8 ∨ 64 < nn.toNat) then .eNn
       else if op = 0x04#8 ∧ 128 < len.toNat then .eLen
       else if (op = 0x03#8 ∨ op = 0x04#8) ∧ s.hstate ≠ .absorb then .eSeq
       else if op = 0x04#8 ∧ len = 0#8 ∧ s.t ≠ 0#64 then .eSeq
       else if op = 0x03#8 ∧ 2 ^ 64 - 1 - 128 < s.t.toNat then .eCount
       else if op = 0x04#8 ∧ 2 ^ 64 - 1 - len.toNat < s.t.toNat then .eCount
       else .eNone))
  ∧ ∀ (s : State) (w : Word) (e : ErrCode), checkWord w s = e → e ≠ .eNone → s.busy = false →
      (s.err = false ∨ w.extractLsb' 0 8 = 0x0E#8 ∨ w.extractLsb' 0 8 = 0x0F#8) →
      s.memWrite 0x008#12 8 w =
        ({ s with
            errcode := if s.err = false then e else s.errcode
            err := true
            irqPend := s.irqPend ||| 2#2 }, .ok)

/-- R173: the code a CMD write records is the first in the order E_OPCODE, E_RSVD, E_NN, E_LEN, E_SEQ, E_COUNT whose
fault the word has; the bus-error conditions come before every check, and then no command error is raised; the rule's
two examples. -/
def Obligations.FaultPriorityFollowsRule : Prop :=
  (∀ (s : State) (w : Word), s.busy = false → s.err = false →
    let badOpcode := decode w = .error .badOpcode
    let reserved := decode w = .error .reservedBits
    let badNn := ∃ nn, decode w = .ok (.initv nn) ∧ (Instr.initv nn).wf = false
    let badLen := ∃ len, decode w = .ok (.last len) ∧ (Instr.last len).wf = false
    let badSeq := (s.hstate ≠ .absorb ∧ (decode w = .ok .block ∨ ∃ len, decode w = .ok (.last len)))
      ∨ (decode w = .ok (.last 0#8) ∧ s.t ≠ 0#64)
    let badCount := (decode w = .ok .block ∧ 2 ^ 64 - 1 < s.t.toNat + 128)
      ∨ ∃ len, decode w = .ok (.last len) ∧ 2 ^ 64 - 1 < s.t.toNat + len.toNat
    let after := (s.memWrite 0x008#12 8 w).1
    (badOpcode → after.errcode = .eOpcode)
    ∧ (¬badOpcode → reserved → after.errcode = .eRsvd)
    ∧ (¬badOpcode → ¬reserved → badNn → after.errcode = .eNn)
    ∧ (¬badOpcode → ¬reserved → ¬badNn → badLen → after.errcode = .eLen)
    ∧ (¬badOpcode → ¬reserved → ¬badNn → ¬badLen → badSeq → after.errcode = .eSeq)
    ∧ (¬badOpcode → ¬reserved → ¬badNn → ¬badLen → ¬badSeq → badCount → after.errcode = .eCount)
    ∧ (¬badOpcode → ¬reserved → ¬badNn → ¬badLen → ¬badSeq → ¬badCount →
        after.err = false ∧ after.errcode = s.errcode ∧ after.busy = true))
  ∧ (∀ (s : State) (w : Word),
      s.busy = true ∨ (s.err = true ∧ w.extractLsb' 0 8 ≠ 0x0E#8 ∧ w.extractLsb' 0 8 ≠ 0x0F#8) →
      s.memWrite 0x008#12 8 w = (s, .busErr))
  ∧ ∀ s : State, s.busy = false → s.err = false → s.hstate = .idle →
      (s.memWrite 0x008#12 8 (encode (.last 200#8))).1.errcode = .eLen
      ∧ (s.memWrite 0x008#12 8 0x0000000100000003#64).1.errcode = .eRsvd

/-- R171, R176: while an error is recorded ZEROIZE and ACK are still accepted, in every hash state. -/
def Obligations.RecoveryCommandsAcceptedInErrorState : Prop :=
  ∀ (s : State) (w : Word), w = 0x0E#64 ∨ w = 0x0F#64 → s.busy = false → s.err = true →
    ∃ (k : EngineWork) (n : Nat),
      s.memWrite 0x008#12 8 w = ({ s with busy := true, cur := w, work := k, freeCount := n }, .ok)

/-! ### Steps -/

/-- R174 with R20 and R64: when it is the engine's turn and the latched word decodes to i, the step carries out i.
Model's choice: that the turn is taken from `inputs` (log 3), that with no input left the step is the engine's turn
(log 4), that the last answer is dropped (log 5), and what `exec` does where the check fails (log 7). -/
def Obligations.StepRunsLatchedCommand : Prop :=
  ∀ (s : State) (i : Instr), s.busy = true → s.engineNext = true → decode s.cur = .ok i →
    step s = exec i { s with inputs := s.inputs.tail, resp := none }

/-- R61: a step whose input is a host access performs that access, and the port's answer is kept. That inputs and
answers stand in the state is the model's choice, logs 3 and 5. -/
def Obligations.StepPerformsHostAccess : Prop :=
  (∀ (s : State) (off : BitVec 12) (n : Nat) (rest : List Input), s.inputs = .read off n :: rest →
    step s = .next { s with inputs := rest, resp := some (.read (s.memRead off n).1 (s.memRead off n).2) })
  ∧ ∀ (s : State) (off : BitVec 12) (n : Nat) (v : Word) (rest : List Input),
    s.inputs = .write off n v :: rest →
    step s = .next { (s.memWrite off n v).1 with inputs := rest, resp := some (.write (s.memWrite off n v).2) }

/-- The word the model places where its next step takes a command from runs as that command (log 8). -/
def Obligations.PlacedWordRunsNext : Prop :=
  ∀ (s : State) (n w : Nat) (i : Instr), decodeTableWord n w = some i →
    step (s.withFetchWord n w)
      = exec i { s with busy := true, cur := BitVec.ofNat 64 (w % 2 ^ n), resp := none }

/-- R174: an engine turn with no command running changes nothing of the block. The order of inputs and what a step
does when none is left are the model's choice, log 3 and log 4. -/
def Obligations.IdleEngineTurnChangesNothing : Prop :=
  ∀ s : State, s.busy = false → s.engineNext = true →
    step s = .next { s with inputs := s.inputs.tail, resp := none }

/-- R210: a reset step puts every piece of the block's state at its reset value, whatever ran (R211), and an access
while reset is held is refused. How reset and the access reach the block (`inputs`) is the model's, log 3. -/
def Obligations.ResetStepClearsEverything : Prop :=
  (∀ (s : State) (rest : List Input), s.inputs = .reset :: rest →
    ∃ t : State, step s = .next t
      ∧ t.busy = false ∧ t.err = false ∧ t.errcode.bits = 0#4 ∧ t.hstate = .idle ∧ t.nn = 0#7 ∧ t.t = 0#64
      ∧ (∀ i : Fin 8, t.h[i] = 0#64) ∧ (∀ i : Fin 16, t.m[i] = 0#64) ∧ (∀ i : Fin 128, t.x[i] = 0#64)
      ∧ (∀ i : Fin 128, t.y[i] = 0#64) ∧ (∀ i : Fin 128, t.r[i] = 0#64)
      ∧ t.irqEn = 0#2 ∧ t.irqPend = 0#2 ∧ t.cur = 0#64
      ∧ (∀ i : Fin 16, t.work.v[i] = 0#64) ∧ (∀ i : Fin 128, t.work.q[i] = 0#64) ∧ t.work.progress = 0
      ∧ t.irq = false ∧ t.inputs = rest)
  ∧ ∀ (s : State) (rest : List Input), s.inputs = .accessInReset :: rest → step s = .refused .accessInReset

/-! ### What each command does (40_blake2b.md, 41_gcomp.md, 42_control.md) -/

/-- R110: INIT64, its word, its error and its effect, in every state; the hidden engine state afterwards is open
(R39). -/
def Obligations.Init64StartsSixtyFourByteHash : Prop :=
  ∀ s : State,
    decode 0x0000000000000001#64 = .ok .init64
    ∧ checkWord 0x0000000000000001#64 s = .eNone
    ∧ (∀ w : Word, w.extractLsb' 0 8 = 0x01#8 → w.extractLsb' 8 56 ≠ 0#56 → checkWord w s = .eRsvd)
    ∧ (∃ k : EngineWork, exec .init64 s = .next
        { s with
          h := hinit 64#7
          t := 0#64
          nn := 64#7
          hstate := .absorb
          busy := false
          cur := 0#64
          irqPend := s.irqPend ||| 1#2
          work := k })
    ∧ (hinit 64#7)[0] = 0x6A09E667F2BDC948#64
    ∧ ∀ i : Fin 8, i ≠ 0 → (hinit 64#7)[i] = iv[i]

/-- R111: INITV nn, its word, its errors and its effect, for every legal nn and in every state. With nn = 1 the digest
is one byte. The hidden engine state afterwards is open (R39). -/
def Obligations.InitvStartsVariableHash : Prop :=
  (∀ nn : BitVec 8, decode (nn.setWidth 64 <<< 8 ||| 0x02#64) = .ok (.initv nn))
  ∧ (∀ (s : State) (w : Word), w.extractLsb' 0 8 = 0x02#8 → w.extractLsb' 16 48 ≠ 0#48 → checkWord w s = .eRsvd)
  ∧ (∀ (s : State) (nn : BitVec 8), nn.toNat = 0 ∨ 64 < nn.toNat → checkWord (encode (.initv nn)) s = .eNn)
  ∧ (∀ (s : State) (nn : BitVec 8), 1 ≤ nn.toNat → nn.toNat ≤ 64 → checkWord (encode (.initv nn)) s = .eNone ∧
      ∃ k : EngineWork, exec (.initv nn) s = .next
        { s with
          h := hinit (nn.setWidth 7)
          t := 0#64
          nn := nn.setWidth 7
          hstate := .absorb
          busy := false
          cur := 0#64
          irqPend := s.irqPend ||| 1#2
          work := k })
  ∧ encode (.initv 32#8) = 0x0000000000002002#64 ∧ (hinit 32#7)[0] = 0x6A09E667F2BDC928#64
  ∧ ∀ s : State, s.nn = 1#7 → (s.dig 0).extractLsb' 8 56 = 0#56 ∧ ∀ i : Fin 8, i ≠ 0 → s.dig i = 0#64

/-- R112 (but for its worked example): BLOCK, its word, its errors and its effect where the checks pass. The hidden
work vector afterwards is open (R39); that Q stays as it was is the model's choice, log 6. -/
def Obligations.BlockCompressesFullBlock : Prop :=
  decode 0x0000000000000003#64 = .ok .block
  ∧ (∀ (s : State) (w : Word), w.extractLsb' 0 8 = 0x03#8 → w.extractLsb' 8 56 ≠ 0#56 → checkWord w s = .eRsvd)
  ∧ (∀ s : State, s.hstate ≠ .absorb → checkWord 0x0000000000000003#64 s = .eSeq)
  ∧ (∀ s : State, s.hstate = .absorb → 2 ^ 64 - 1 - 128 < s.t.toNat → checkWord 0x0000000000000003#64 s = .eCount)
  ∧ ∀ s : State, s.hstate = .absorb → s.t.toNat ≤ 2 ^ 64 - 1 - 128 → ∃ (v : Words 16) (k : Nat),
      exec .block s = .next
        { s with
          t := s.t + 128#64
          h := compress s.h s.m (s.t + 128#64) false
          busy := false
          cur := 0#64
          irqPend := s.irqPend ||| 1#2
          work := { s.work with v := v, progress := k } }

/-- R113 (but for its worked example): LAST len, its word, its errors and its effect where the checks pass. The hidden
work vector afterwards is open (R39); that Q stays as it was is the model's choice, log 6. -/
def Obligations.LastCompressesFinalBlock : Prop :=
  (∀ len : BitVec 8, decode (len.setWidth 64 <<< 16 ||| 0x04#64) = .ok (.last len))
  ∧ (∀ (s : State) (w : Word), w.extractLsb' 0 8 = 0x04#8 →
      w.extractLsb' 8 8 ≠ 0#8 ∨ w.extractLsb' 24 40 ≠ 0#40 → checkWord w s = .eRsvd)
  ∧ (∀ (s : State) (len : BitVec 8), 128 < len.toNat → checkWord (encode (.last len)) s = .eLen)
  ∧ (∀ (s : State) (len : BitVec 8), len.toNat ≤ 128 → s.hstate ≠ .absorb ∨ (len = 0#8 ∧ s.t ≠ 0#64) →
      checkWord (encode (.last len)) s = .eSeq)
  ∧ (∀ (s : State) (len : BitVec 8), len.toNat ≤ 128 → s.hstate = .absorb → 2 ^ 64 - 1 - len.toNat < s.t.toNat →
      checkWord (encode (.last len)) s = .eCount)
  ∧ ∀ (s : State) (len : BitVec 8), len.toNat ≤ 128 → s.hstate = .absorb → (len = 0#8 → s.t = 0#64) →
      s.t.toNat ≤ 2 ^ 64 - 1 - len.toNat → ∃ (v : Words 16) (k : Nat),
      exec (.last len) s = .next
        { s with
          t := s.t + len.setWidth 64
          h := compress s.h (pad s.m len.toNat) (s.t + len.setWidth 64) true
          hstate := .final
          busy := false
          cur := 0#64
          irqPend := s.irqPend ||| 1#2
          work := { s.work with v := v, progress := k } }

/-- R146 (but for its worked example): GCOMP, its word, its error and its effect, in every state; X = Y gives R = 0.
The hidden working block afterwards is open (R39); that v stays as it was is the model's choice, log 6. -/
def Obligations.GcompComputesBlockCompression : Prop :=
  ∀ s : State,
    decode 0x0000000000000008#64 = .ok .gcomp
    ∧ checkWord 0x0000000000000008#64 s = .eNone
    ∧ (∀ w : Word, w.extractLsb' 0 8 = 0x08#8 → w.extractLsb' 8 56 ≠ 0#56 → checkWord w s = .eRsvd)
    ∧ (∃ (q : Words 128) (k : Nat), exec .gcomp s = .next
        { s with
          r := gFun s.x s.y
          busy := false
          cur := 0#64
          irqPend := s.irqPend ||| 1#2
          work := { s.work with q := q, progress := k } })
    ∧ (s.x = s.y → gFun s.x s.y = Vector.replicate 128 0#64)

/-- R160: ZEROIZE, its word, its error, its effect in every state and its acceptance while an error is recorded: all
data 0, the hidden v and Q too; ERR, ERRCODE and IRQ_EN are kept. -/
def Obligations.ZeroizeClearsAllData : Prop :=
  ∀ s : State,
    decode 0x000000000000000E#64 = .ok .zeroize
    ∧ (s.busy = false → (s.memWrite 0x008#12 8 0x000000000000000E#64).2 = .ok
        ∧ (s.memWrite 0x008#12 8 0x000000000000000E#64).1.busy = true)
    ∧ (∀ w : Word, w.extractLsb' 0 8 = 0x0E#8 → w.extractLsb' 8 56 ≠ 0#56 → checkWord w s = .eRsvd)
    ∧ ∃ (k : Nat) (t : State), exec .zeroize s = .next t
      ∧ t = { s with
              h := Vector.replicate 8 0#64
              t := 0#64
              nn := 0#7
              hstate := .idle
              m := Vector.replicate 16 0#64
              x := Vector.replicate 128 0#64
              y := Vector.replicate 128 0#64
              r := Vector.replicate 128 0#64
              busy := false
              cur := 0#64
              irqPend := s.irqPend ||| 1#2
              work := { v := Vector.replicate 16 0#64, q := Vector.replicate 128 0#64, progress := k } }
      ∧ (∀ i : Fin 8, t.dig i = 0#64)
      ∧ (s.err = false → s.errcode = .eNone → t.statusWord = 0#64)

/-- R161: ACK, its word, its error, its effect in every state and its acceptance while an error is recorded; where
none is recorded nothing but DONE changes; a malformed ACK keeps the first code; the rule's example. The hidden
engine state afterwards is open (R39). -/
def Obligations.AckLeavesErrorState : Prop :=
  (∀ s : State,
    decode 0x000000000000000F#64 = .ok .ack
    ∧ (s.busy = false → (s.memWrite 0x008#12 8 0x000000000000000F#64).2 = .ok
        ∧ (s.memWrite 0x008#12 8 0x000000000000000F#64).1.busy = true)
    ∧ (∀ w : Word, w.extractLsb' 0 8 = 0x0F#8 → w.extractLsb' 8 56 ≠ 0#56 → checkWord w s = .eRsvd
        ∧ (s.busy = false → s.err = true →
            s.memWrite 0x008#12 8 w = ({ s with irqPend := s.irqPend ||| 2#2 }, .ok)))
    ∧ ∃ k : EngineWork, exec .ack s = .next
        { s with
          err := false
          errcode := .eNone
          busy := false
          cur := 0#64
          irqPend := s.irqPend ||| 1#2
          work := k })
  ∧ (∀ s t : State, s.Inv → s.err = false → exec .ack s = .next t →
      { t with busy := s.busy, cur := s.cur, irqPend := s.irqPend, work := s.work } = s)
  ∧ (State.reset.memWrite 0x008#12 8 0x0000000000000002#64).1.statusWord = 0x0000000000000032#64
  ∧ ∃ t : State, exec .ack (State.reset.memWrite 0x008#12 8 0x0000000000000002#64).1 = .next t
      ∧ t.statusWord = 0x0000000000000000#64

/-- From R109: INIT64 and INITV 64 have the same effect, in every state; so whatever follows is the same after either.
That the two also leave the same hidden v, Q and progress is the model's choice, log 6: R39 keeps these out of a
command's effect. It says where INITV completes for nn = 64 alone. -/
def Obligations.InitvSixtyFourIsInit64 : Prop :=
  ∀ s : State, exec (.initv 64#8) s = exec .init64 s
    ∧ ∃ t : State, exec .init64 s = .next t ∧ t.h = hinit 64#7 ∧ t.t = 0#64 ∧ t.nn = 64#7 ∧ t.hstate = .absorb

/-- R115: the empty message is one compression of the zero block with counter 0 and the final flag, whatever M
holds. -/
def Obligations.EmptyMessageCompressesZeroBlock : Prop :=
  ∀ (s : State) (nn : BitVec 8), 1 ≤ nn.toNat → nn.toNat ≤ 64 →
    ∃ t u : State, exec (.initv nn) s = .next t ∧ exec (.last 0#8) t = .next u
      ∧ u.h = compress (hinit (nn.setWidth 7)) (Vector.replicate 16 0#64) 0#64 true
      ∧ u.hstate = .final ∧ u.t = 0#64 ∧ u.m = s.m

/-- R175 and R172 at the engine: a command its check turns away has none of its effect, only the error entry, and the
engine is free. That the engine checks again is the model's choice, log 7, and that v and Q stay as they were, log 6. -/
def Obligations.RejectedCommandHasNoEffect : Prop :=
  ∀ (s : State) (i : Instr), checkInstr i s ≠ .eNone → ∃ k : Nat,
    exec i s = .next
      { s with
        errcode := if s.err = false then checkInstr i s else s.errcode
        err := true
        irqPend := s.irqPend ||| 2#2
        busy := false
        cur := 0#64
        work := { s.work with progress := k } }

/-- R107, R216: two states that differ in M only at message bytes from len on give the same chaining value and count
by LAST len. -/
def Obligations.LastIgnoresBytesFromLenOn : Prop :=
  ∀ (s : State) (m' : Words 16) (len : BitVec 8) (t t' : State),
    (∀ (i : Fin 16) (k : Fin 8), 8 * i.val + k.val < len.toNat → byteOf m'[i] k.val = byteOf s.m[i] k.val) →
    exec (.last len) s = .next t → exec (.last len) { s with m := m' } = .next t' →
    t'.h = t.h ∧ t'.t = t.t ∧ t'.hstate = t.hstate

/-! ### Frames of the window (10_state.md R34 to R36) -/

/-- The window's bytes at M, X, Y and R are unchanged by INIT64, INITV, BLOCK, LAST and ACK, and those of DIG by
ACK. What the hidden v and Q keep is the model's choice, log 6. -/
def Obligations.HashCommandsLeaveBuffersUnchanged : Prop :=
  ∀ (i : Instr) (s t : State), i ≠ .gcomp → i ≠ .zeroize → exec i s = .next t →
    (∀ off : BitVec 12, (0x080 ≤ off.toNat ∧ off.toNat < 0x100) ∨ 0x400 ≤ off.toNat →
      t.windowByte off = s.windowByte off)
    ∧ (i = .ack → ∀ off : BitVec 12, 0x080 ≤ off.toNat → t.windowByte off = s.windowByte off)
    ∧ t.irqEn = s.irqEn ∧ t.inputs = s.inputs ∧ t.resp = s.resp ∧ t.freeCount = s.freeCount
    ∧ t.work.q = s.work.q ∧ (i ≠ .block → (∀ len, i ≠ .last len) → t.work.v = s.work.v)

/-- GCOMP stores to the 1024 bytes of R and to no other byte of the window's buffers: the byte stored at offset
0xC00 + j is byte j of `bytes(G(X, Y))`, and M, DIG, X, Y read as before; the hash goes on. -/
def Obligations.GcompStoresOnlyResultBytes : Prop :=
  ∀ s t : State, exec .gcomp s = .next t →
    (∀ (i : Fin 128) (k : Fin 8),
      t.windowByte (BitVec.ofNat 12 (0xC00 + 8 * i.val + k.val)) = byteOf (gFun s.x s.y)[i] k.val)
    ∧ (∀ off : BitVec 12, 0x080 ≤ off.toNat → off.toNat < 0xC00 → t.windowByte off = s.windowByte off)
    ∧ t.h = s.h ∧ t.t = s.t ∧ t.nn = s.nn ∧ t.hstate = s.hstate

/-- After ZEROIZE every byte of the window from 0x080 on reads 0 (R160). -/
def Obligations.ZeroizedWindowReadsZero : Prop :=
  ∀ s t : State, exec .zeroize s = .next t → ∀ off : BitVec 12, 0x080 ≤ off.toNat → t.windowByte off = 0#8

/-! ### Functions -/

/-- R103: MIX on four different places. -/
def Obligations.MixUpdatesItsFourWords : Prop :=
  ∀ (v : Words 16) (q : Quad) (x y : Word), [q.a, q.b, q.c, q.d].Nodup →
    let a1 := v[q.a] + v[q.b] + x
    let d1 := rotr (v[q.d] ^^^ a1) 32
    let c1 := v[q.c] + d1
    let b1 := rotr (v[q.b] ^^^ c1) 24
    let a2 := a1 + b1 + y
    let d2 := rotr (d1 ^^^ a2) 16
    let c2 := c1 + d2
    let b2 := rotr (b1 ^^^ c2) 63
    (mix v q x y)[q.a] = a2 ∧ (mix v q x y)[q.b] = b2 ∧ (mix v q x y)[q.c] = c2 ∧ (mix v q x y)[q.d] = d2
      ∧ ∀ j : Fin 16, j ∉ [q.a, q.b, q.c, q.d] → (mix v q x y)[j] = v[j]

/-- R141: GB on four different places. -/
def Obligations.QuarterRoundUpdatesItsFourWords : Prop :=
  ∀ (v : Words 16) (q : Quad), [q.a, q.b, q.c, q.d].Nodup →
    let a1 := fbl v[q.a] v[q.b]
    let d1 := rotr (v[q.d] ^^^ a1) 32
    let c1 := fbl v[q.c] d1
    let b1 := rotr (v[q.b] ^^^ c1) 24
    let a2 := fbl a1 b1
    let d2 := rotr (d1 ^^^ a2) 16
    let c2 := fbl c1 d2
    let b2 := rotr (b1 ^^^ c2) 63
    (gb v q)[q.a] = a2 ∧ (gb v q)[q.b] = b2 ∧ (gb v q)[q.c] = c2 ∧ (gb v q)[q.d] = d2
      ∧ ∀ j : Fin 16, j ∉ [q.a, q.b, q.c, q.d] → (gb v q)[j] = v[j]

/-- R104, R102: the start vector, the eight steps of a round with their message words, twelve rounds, and the fold
into h. -/
def Obligations.CompressionFollowsRule : Prop :=
  (∀ (h : Words 8) (t : Word) (f : Bool) (i : Fin 8),
    (workInit h t f)[i.val] = h[i]
    ∧ (workInit h t f)[i.val + 8] =
        (if i = 4 then iv[i] ^^^ t
         else if i = 6 ∧ f = true then iv[i] ^^^ 0xFFFFFFFFFFFFFFFF#64
         else iv[i]))
  ∧ (∀ (m v : Words 16) (r : Nat), roundF m v r =
      (let s := sigmaRow r
       let v := mix v ⟨0, 4, 8, 12⟩ m[s[0]] m[s[1]]
       let v := mix v ⟨1, 5, 9, 13⟩ m[s[2]] m[s[3]]
       let v := mix v ⟨2, 6, 10, 14⟩ m[s[4]] m[s[5]]
       let v := mix v ⟨3, 7, 11, 15⟩ m[s[6]] m[s[7]]
       let v := mix v ⟨0, 5, 10, 15⟩ m[s[8]] m[s[9]]
       let v := mix v ⟨1, 6, 11, 12⟩ m[s[10]] m[s[11]]
       let v := mix v ⟨2, 7, 8, 13⟩ m[s[12]] m[s[13]]
       mix v ⟨3, 4, 9, 14⟩ m[s[14]] m[s[15]]))
  ∧ (∀ (h : Words 8) (m : Words 16) (t : Word) (f : Bool) (i : Fin 8),
      let v := (List.range 12).foldl (roundF m) (workInit h t f)
      (compress h m t f)[i] = h[i] ^^^ v[i.val] ^^^ v[i.val + 8])

/-- R105: the initial chaining value, its examples, and that different nn give different ones. -/
def Obligations.InitialChainingValueFollowsRule : Prop :=
  (∀ nn : BitVec 7,
    (hinit nn)[0] = 0x6A09E667F3BCC908#64 ^^^ 0x0000000001010000#64 ^^^ nn.setWidth 64
    ∧ ∀ i : Fin 8, i ≠ 0 → (hinit nn)[i] = iv[i])
  ∧ (hinit 64#7)[0] = 0x6A09E667F2BDC948#64
  ∧ (hinit 32#7)[0] = 0x6A09E667F2BDC928#64
  ∧ (hinit 1#7)[0] = 0x6A09E667F2BDC909#64
  ∧ ∀ n n' : BitVec 7, n ≠ n' → hinit n ≠ hinit n'

/-- R107: padding, byte by byte, and that the bytes from LEN on are ignored. -/
def Obligations.PaddingZeroesBytesFromLenOn : Prop :=
  (∀ (m : Words 16) (len : Nat) (i : Fin 16) (k : Fin 8), len ≤ 128 →
    byteOf (pad m len)[i] k.val = if 8 * i.val + k.val < len then byteOf m[i] k.val else 0#8)
  ∧ ∀ (m m' : Words 16) (len : Nat), len ≤ 128 →
    (∀ (i : Fin 16) (k : Fin 8), 8 * i.val + k.val < len → byteOf m'[i] k.val = byteOf m[i] k.val) →
    pad m' len = pad m len

/-- R33, R106: DIG byte by byte, its reads and writes, and the digest as a byte string. -/
def Obligations.DigestRegistersFollowRule : Prop :=
  (∀ (s : State) (i k : Fin 8), byteOf (s.dig i) k.val =
    if s.hstate = .final ∧ 8 * i.val + k.val < s.nn.toNat then byteOf s.h[i] k.val else 0#8)
  ∧ (∀ (s : State) (i : Fin 8),
      s.memRead (offDig i) 8 = if s.busy = true then (.busErr, 0#64) else (.ok, s.dig i))
  ∧ (∀ (s : State) (i : Fin 8) (v : Word), s.memWrite (offDig i) 8 v = (s, .busErr))
  ∧ ∀ s : State, s.hstate = .final → s.nn.toNat ≤ 64 →
      s.digest = (bytesOf s.h).take s.nn.toNat ∧ s.digest.length = s.nn.toNat
        ∧ ∀ i k : Fin 8, 8 * i.val + k.val < s.nn.toNat →
            s.digest.getD (8 * i.val + k.val) 0#8 = byteOf s.h[i] k.val

/-- R9: rotr moves bit (i + n) mod 64 to bit i. -/
def Obligations.RotationMovesBits : Prop :=
  ∀ (x : Word) (n i : Nat), 1 ≤ n → n ≤ 63 → i < 64 →
    (rotr x n).getLsbD i = x.getLsbD ((i + n) % 64)

/-- R140: FBL as a number modulo 2^64, and the rule's examples. -/
def Obligations.ProductAddFollowsRule : Prop :=
  (∀ x y : Word, (fbl x y).toNat =
    (x.toNat + y.toNat + 2 * ((x.toNat % 2 ^ 32) * (y.toNat % 2 ^ 32))) % 2 ^ 64)
  ∧ fbl 1#64 1#64 = 4#64
  ∧ fbl 0xFFFFFFFF#64 0xFFFFFFFF#64 = 0xFFFFFFFE00000000#64
  ∧ fbl 0x8000000000000000#64 0x8000000000000000#64 = 0#64
  ∧ ∀ x : Word, fbl 0#64 x = x

/-- R142, R143: the eight GB steps of P in order, P of zero, the words each row and column takes, the word a block's result is
made of; and the order of the rows, and of the columns, among themselves does not matter. -/
def Obligations.BlockPermutationFollowsRule : Prop :=
  (∀ v : Words 16, permP v =
    gb (gb (gb (gb (gb (gb (gb (gb v ⟨0, 4, 8, 12⟩) ⟨1, 5, 9, 13⟩) ⟨2, 6, 10, 14⟩) ⟨3, 7, 11, 15⟩)
      ⟨0, 5, 10, 15⟩) ⟨1, 6, 11, 12⟩) ⟨2, 7, 8, 13⟩) ⟨3, 4, 9, 14⟩)
  ∧ permP (Vector.replicate 16 0#64) = Vector.replicate 16 0#64
  ∧ (∀ (i : Fin 8) (k : Fin 16), (rowIndex i k).val = 16 * i.val + k.val)
  ∧ (∀ (i k : Fin 8) (b : Fin 2), (colIndex i ⟨2 * k.val + b.val, by omega⟩).val = 16 * k.val + 2 * i.val + b.val)
  ∧ (∀ (q : Words 128) (ix : Fin 16 → Fin 128), Function.Injective ix →
      (∀ k : Fin 16, (permAt ix q)[ix k] = (permP (Vector.ofFn fun j => q[ix j]))[k])
      ∧ ∀ j : Fin 128, (∀ k, ix k ≠ j) → (permAt ix q)[j] = q[j])
  ∧ (∀ (q : Words 128) (l : List (Fin 8)), l.Perm (List.finRange 8) →
      l.foldl (fun q i => permAt (rowIndex i) q) q = (List.finRange 8).foldl (fun q i => permAt (rowIndex i) q) q
      ∧ l.foldl (fun q i => permAt (colIndex i) q) q = (List.finRange 8).foldl (fun q i => permAt (colIndex i) q) q)
  ∧ (∀ (x y : Words 128) (i : Fin 128),
      let rx : Words 128 := Vector.ofFn fun j => x[j] ^^^ y[j]
      let rows := (List.finRange 8).foldl (fun q i => permAt (rowIndex i) q) rx
      let q := (List.finRange 8).foldl (fun q i => permAt (colIndex i) q) rows
      (gFun x y)[i] = q[i] ^^^ rx[i])

/-- R144: the laws of G. -/
def Obligations.BlockCompressionLaws : Prop :=
  (∀ x y : Words 128, gFun x y = gFun y x)
  ∧ (∀ x : Words 128, gFun x x = Vector.replicate 128 0#64)
  ∧ (∀ x y x' y' : Words 128, (∀ i : Fin 128, x[i] ^^^ y[i] = x'[i] ^^^ y'[i]) → gFun x y = gFun x' y')

/-- R10: LE64, words, bytes and LE32. -/
def Obligations.ByteSerialisationIsLittleEndian : Prop :=
  (∀ b : Vector Byte 8, (le64 b).toNat =
    b[0].toNat + 256 * b[1].toNat + 256 ^ 2 * b[2].toNat + 256 ^ 3 * b[3].toNat + 256 ^ 4 * b[4].toNat
      + 256 ^ 5 * b[5].toNat + 256 ^ 6 * b[6].toNat + 256 ^ 7 * b[7].toNat)
  ∧ (∀ (n : Nat) (w : Words n), wordsOf n (bytesOf w) = w)
  ∧ (∀ (n : Nat) (l : List Byte), l.length = 8 * n → bytesOf (wordsOf n l) = l)
  ∧ (∀ (n : Nat) (l : List Byte) (i : Fin n), l.length = 8 * n →
      (wordsOf n l)[i] = le64 (Vector.ofFn fun k => l.getD (8 * i.val + k.val) 0#8))
  ∧ ∀ x : BitVec 32, (le32 x).length = 4 ∧ ((le32 x).getD 0 0#8).toNat + 256 * ((le32 x).getD 1 0#8).toNat
      + 256 ^ 2 * ((le32 x).getD 2 0#8).toNat + 256 ^ 3 * ((le32 x).getD 3 0#8).toNat = x.toNat

/-! ### The window (20_memory.md) -/

/-- R26: the fields of STATUS; it is readable at any time and a write is a bus error. -/
def Obligations.StatusRegisterFieldsFollowRule : Prop :=
  ∀ s : State,
    s.memRead 0x010#12 8 = (.ok, s.statusWord)
    ∧ s.statusWord.getLsbD 0 = s.busy
    ∧ s.statusWord.getLsbD 1 = s.err
    ∧ s.statusWord.extractLsb' 2 2 = 0#2
    ∧ s.statusWord.extractLsb' 4 4 = s.errcode.bits
    ∧ s.statusWord.extractLsb' 8 2 = s.hstate.bits
    ∧ s.statusWord.extractLsb' 10 6 = 0#6
    ∧ s.statusWord.extractLsb' 16 7 = s.nn
    ∧ s.statusWord.extractLsb' 23 41 = 0#41
    ∧ ∀ v : Word, s.memWrite 0x010#12 8 v = (s, .busErr)

/-- R37, R38: IRQ_EN and IRQ_PEND, in every state, BUSY or not. -/
def Obligations.InterruptRegistersFollowRules : Prop :=
  ∀ (s : State) (v : Word),
    s.memRead 0x020#12 8 = (.ok, s.irqEn.setWidth 64)
    ∧ s.memRead 0x028#12 8 = (.ok, s.irqPend.setWidth 64)
    ∧ s.memWrite 0x020#12 8 v = ({ s with irqEn := v.extractLsb' 0 2 }, .ok)
    ∧ ∃ p : BitVec 2, s.memWrite 0x028#12 8 v = ({ s with irqPend := p }, .ok)
      ∧ ∀ i : Nat, i < 2 → p.getLsbD i = (s.irqPend.getLsbD i && !v.getLsbD i)

/-- R56: what an aligned 8-byte read answers, offset by offset, and that a read step changes nothing of the block
(`inputs` and `resp` are the model's own fields, logs 3 and 5). -/
def Obligations.ReadsFollowRule : Prop :=
  (∀ s : State,
    s.memRead 0x000#12 8 = (.ok, 0x00000013B2B00001#64)
    ∧ s.memRead 0x008#12 8 = (.ok, 0#64)
    ∧ s.memRead 0x010#12 8 = (.ok, s.statusWord)
    ∧ s.memRead 0x018#12 8 = (.ok, s.t)
    ∧ s.memRead 0x020#12 8 = (.ok, s.irqEn.setWidth 64)
    ∧ s.memRead 0x028#12 8 = (.ok, s.irqPend.setWidth 64)
    ∧ (∀ off : BitVec 12, off.toNat % 8 = 0 →
        (0x030 ≤ off.toNat ∧ off.toNat < 0x080) ∨ (0x140 ≤ off.toNat ∧ off.toNat < 0x400) →
        s.memRead off 8 = (.busErr, 0#64))
    ∧ (∀ off : BitVec 12, off.toNat % 8 = 0 → 0x080 ≤ off.toNat → s.busy = true → s.memRead off 8 = (.busErr, 0#64))
    ∧ (s.busy = false →
        (∀ i : Fin 16, s.memRead (offM i) 8 = (.ok, s.m[i]))
        ∧ (∀ i : Fin 8, s.memRead (offDig i) 8 = (.ok, s.dig i))
        ∧ (∀ i : Fin 128, s.memRead (offX i) 8 = (.ok, s.x[i]))
        ∧ (∀ i : Fin 128, s.memRead (offY i) 8 = (.ok, s.y[i]))
        ∧ ∀ i : Fin 128, s.memRead (offR i) 8 = (.ok, s.r[i])))
  ∧ ∀ (s t : State) (off : BitVec 12) (n : Nat) (rest : List Input), s.inputs = .read off n :: rest →
      step s = .next t → { t with inputs := s.inputs, resp := s.resp } = s

/-- R57 with R58: what an aligned 8-byte write does and answers, offset by offset. -/
def Obligations.WritesFollowRule : Prop :=
  ∀ (s : State) (v : Word),
    s.memWrite 0x008#12 8 v = s.issueCommand v
    ∧ s.memWrite 0x020#12 8 v = ({ s with irqEn := v.extractLsb' 0 2 }, .ok)
    ∧ s.memWrite 0x028#12 8 v = ({ s with irqPend := s.irqPend &&& ~~~(v.extractLsb' 0 2) }, .ok)
    ∧ s.memWrite 0x000#12 8 v = (s, .busErr)
    ∧ s.memWrite 0x010#12 8 v = (s, .busErr)
    ∧ s.memWrite 0x018#12 8 v = (s, .busErr)
    ∧ (∀ off : BitVec 12, off.toNat % 8 = 0 →
        (0x030 ≤ off.toNat ∧ off.toNat < 0x080) ∨ (0x100 ≤ off.toNat ∧ off.toNat < 0x400)
          ∨ 0xC00 ≤ off.toNat → s.memWrite off 8 v = (s, .busErr))
    ∧ (∀ off : BitVec 12, off.toNat % 8 = 0 → 0x080 ≤ off.toNat → s.busy = true → s.memWrite off 8 v = (s, .busErr))
    ∧ (s.busy = false →
        (∀ i : Fin 16, s.memWrite (offM i) 8 v = ({ s with m := s.m.set i v }, .ok))
        ∧ (∀ i : Fin 128, s.memWrite (offX i) 8 v = ({ s with x := s.x.set i v }, .ok))
        ∧ ∀ i : Fin 128, s.memWrite (offY i) 8 v = ({ s with y := s.y.set i v }, .ok))

/-- R60: an accepted write of M, X or Y replaces all 64 bits of its word, as the next read shows, and no other word of
the three buffers. -/
def Obligations.WrittenBufferWordReadsBack : Prop :=
  ∀ (s : State) (off : BitVec 12) (v : Word), (s.memWrite off 8 v).2 = .ok → 0x080 ≤ off.toNat →
    (s.memWrite off 8 v).1.memRead off 8 = (.ok, v)
    ∧ ∀ off' : BitVec 12, off' ≠ off → (s.memWrite off 8 v).1.memRead off' 8 = s.memRead off' 8

/-- R179: every cause of BUSERR, and no other access is refused. -/
def Obligations.BusErrorsAreExactlyTheListed : Prop :=
  (∀ (s : State) (off : BitVec 12) (n : Nat), (s.memRead off n).1 = .busErr ↔
    n ≠ 8 ∨ off.toNat % 8 ≠ 0
    ∨ (0x030 ≤ off.toNat ∧ off.toNat < 0x080) ∨ (0x140 ≤ off.toNat ∧ off.toNat < 0x400)
    ∨ (0x080 ≤ off.toNat ∧ s.busy = true))
  ∧ ∀ (s : State) (off : BitVec 12) (n : Nat) (v : Word), (s.memWrite off n v).2 = .busErr ↔
    n ≠ 8 ∨ off.toNat % 8 ≠ 0
    ∨ (0x030 ≤ off.toNat ∧ off.toNat < 0x080) ∨ (0x140 ≤ off.toNat ∧ off.toNat < 0x400)
    ∨ off.toNat = 0x000 ∨ off.toNat = 0x010 ∨ off.toNat = 0x018
    ∨ (0x100 ≤ off.toNat ∧ off.toNat < 0x140) ∨ 0xC00 ≤ off.toNat
    ∨ (0x080 ≤ off.toNat ∧ s.busy = true)
    ∨ (off.toNat = 0x008 ∧ s.busy = true)
    ∨ (off.toNat = 0x008 ∧ s.err = true ∧ v.extractLsb' 0 8 ≠ 0x0E#8 ∧ v.extractLsb' 0 8 ≠ 0x0F#8)

/-- R178: the answer is given in the same access; a refused read returns 0, a refused write is discarded, and nothing
of it is recorded in the block (`inputs` and `resp` are the model's own fields, logs 3 and 5). -/
def Obligations.RefusedAccessChangesNothing : Prop :=
  (∀ (s : State) (off : BitVec 12) (n : Nat) (rest : List Input), s.inputs = .read off n :: rest →
    (s.memRead off n).1 = .busErr →
    step s = .next { s with inputs := rest, resp := some (.read .busErr 0#64) })
  ∧ ∀ (s : State) (off : BitVec 12) (n : Nat) (v : Word) (rest : List Input), s.inputs = .write off n v :: rest →
    (s.memWrite off n v).2 = .busErr →
    step s = .next { s with inputs := rest, resp := some (.write .busErr) }

/-- R51: which system addresses reach the window, for every BASE. -/
def Obligations.WindowDecodesItsAddresses : Prop :=
  ∀ (p : Platform) (a : Nat) (off : BitVec 12),
    windowOffset p a = some off ↔ p.base ≤ a ∧ a < p.base + 4096 ∧ off.toNat = a - p.base

/-! ### Whole-machine rules -/

/-- R59, R64: while a command runs no host access changes what it works on, nor its result, nor the command. -/
def Obligations.HostCannotTouchRunningCommand : Prop :=
  ∀ (s t : State) (a : Input) (rest : List Input), s.busy = true → s.inputs = a :: rest → a.isHost = true →
    step s = .next t →
    { t with inputs := s.inputs, resp := s.resp, irqEn := s.irqEn, irqPend := s.irqPend } = s

/-- R28: HSTATE changes only by a completed INIT64, INITV (to ABSORB), LAST (to FINAL) or ZEROIZE (to IDLE), or by
reset. -/
def Obligations.HashStateTransitionsFollowRule : Prop :=
  ∀ s t : State, step s = .next t → t.hstate ≠ s.hstate →
    (s.inputs.head? = some .reset ∧ t.hstate = .idle)
    ∨ (s.busy = true ∧ s.engineNext = true
        ∧ ((decode s.cur = .ok .init64 ∧ t.hstate = .absorb)
          ∨ (∃ nn, decode s.cur = .ok (.initv nn) ∧ t.hstate = .absorb)
          ∨ (∃ len, decode s.cur = .ok (.last len) ∧ s.hstate = .absorb ∧ t.hstate = .final)
          ∨ (decode s.cur = .ok .zeroize ∧ t.hstate = .idle)))

/-- R176, R177, R30: once recorded, ERR and the first ERRCODE stay until ACK completes or reset. -/
def Obligations.ErrorStaysUntilAckOrReset : Prop :=
  ∀ s t : State, s.err = true → step s = .next t →
    (t.err = true ∧ t.errcode = s.errcode)
    ∨ s.inputs.head? = some .reset
    ∨ (s.busy = true ∧ s.engineNext = true ∧ decode s.cur = .ok .ack)

/-- R184, R38: a pending bit goes from 1 to 0 only by a host write of 1 to it at IRQ_PEND or by reset. -/
def Obligations.PendingBitsClearedOnlyByHostOrReset : Prop :=
  ∀ (s t : State) (i : Nat), step s = .next t → s.irqPend.getLsbD i = true → t.irqPend.getLsbD i = false →
    s.inputs.head? = some .reset
    ∨ ∃ v : Word, s.inputs.head? = some (.write 0x028#12 8 v) ∧ v.getLsbD i = true

/-- R181, R182: every completion sets DONE, every error entry sets ERRP whether or not ERR was 1, and neither clears
the other bit. -/
def Obligations.CompletionAndErrorSetPendingBits : Prop :=
  (∀ (s t : State) (i : Instr), checkInstr i s = .eNone → exec i s = .next t →
    t.irqPend.getLsbD 0 = true ∧ t.irqPend.getLsbD 1 = s.irqPend.getLsbD 1)
  ∧ ∀ (s : State) (e : ErrCode), (s.raiseCmdError e).irqPend.getLsbD 1 = true
      ∧ (s.raiseCmdError e).irqPend.getLsbD 0 = s.irqPend.getLsbD 0

/-- R185, R183: irq as a function of the two registers, and a write of IRQ_EN takes effect at once. -/
def Obligations.InterruptLineFollowsRule : Prop :=
  (∀ s : State, s.irq =
    ((s.irqPend.getLsbD 0 && s.irqEn.getLsbD 0) || (s.irqPend.getLsbD 1 && s.irqEn.getLsbD 1)))
  ∧ ∀ (s : State) (v : Word), (s.memWrite 0x020#12 8 v).1.irq =
    ((s.irqPend.getLsbD 0 && v.getLsbD 0) || (s.irqPend.getLsbD 1 && v.getLsbD 1))

/-- R186: a rejection needs BUSY = 0, a completion needs BUSY = 1, and a completion after a clear leaves DONE at 1. -/
def Obligations.CompletionAndRejectionNeverRace : Prop :=
  (∀ (s : State) (off : BitVec 12) (n : Nat) (v : Word),
    (s.memWrite off n v).1.err = true → s.err = false → s.busy = false)
  ∧ (∀ s t : State, engineTurn s = .next t → t ≠ s → s.busy = true)
  ∧ ∀ (s t : State) (v : Word), s.Inv → s.busy = true →
      engineTurn (s.memWrite 0x028#12 8 v).1 = .next t → t.irqPend.getLsbD 0 = true

/-- R31, R108: T counts without wrapping. Only INIT64, INITV, ZEROIZE and reset make it smaller; BLOCK adds 128 and
LAST its LEN, as numbers. -/
def Obligations.ByteCounterNeverWraps : Prop :=
  (∀ s t : State, step s = .next t → t.t.toNat < s.t.toNat →
    s.inputs.head? = some .reset
    ∨ (s.busy = true ∧ s.engineNext = true ∧ t.t = 0#64
        ∧ (decode s.cur = .ok .init64 ∨ decode s.cur = .ok .zeroize ∨ ∃ nn, decode s.cur = .ok (.initv nn))))
  ∧ (∀ s t : State, checkInstr .block s = .eNone → exec .block s = .next t → t.t.toNat = s.t.toNat + 128)
  ∧ ∀ (s t : State) (len : BitVec 8), checkInstr (.last len) s = .eNone → exec (.last len) s = .next t →
      t.t.toNat = s.t.toNat + len.toNat

/-- R174: in a state of the invariant a running command cannot fail: its turn applies its whole effect, ends it and
sets DONE. Model's choice: that the turn is taken from `inputs` (log 3), that with no input left the step is the
engine's turn (log 4), and that the last answer is dropped (log 5). -/
def Obligations.AcceptedCommandCompletes : Prop :=
  ∀ s : State, s.Inv → s.busy = true → s.engineNext = true →
    ∃ (i : Instr) (t : State), decode s.cur = .ok i ∧ checkInstr i s = .eNone ∧ i.wf = true
      ∧ step s = .next t ∧ exec i { s with inputs := s.inputs.tail, resp := none } = .next t
      ∧ t.busy = false ∧ t.cur = 0#64 ∧ t.irqPend.getLsbD 0 = true ∧ (s.err = false → t.err = false)

/-- R171, R174 together: from an idle block, writing a command and then the engine's turn does to every piece of state
but the hidden one what `exec` does. The second clause, that where the check fails the write alone does what `exec`
does, is the model's choice, log 7: there `exec` is the engine's own turn-away, which the spec does not have; the
write's side of it is R172. -/
def Obligations.IssueThenTurnIsExec : Prop :=
  ∀ (s : State) (i : Instr), s.busy = false → s.cur = 0#64 → (s.err = true → i = .ack ∨ i = .zeroize) →
    (checkInstr i s = .eNone →
      sameOutcomeButHidden (engineTurn (s.memWrite 0x008#12 8 (encode i)).1) (exec i s))
    ∧ (checkInstr i s ≠ .eNone →
      sameOutcomeButHidden (.next (s.memWrite 0x008#12 8 (encode i)).1) (exec i s))

/-- R39: the hidden engine state is observable by nothing: two states alike but for it step alike, answers included. -/
def Obligations.HiddenStateIsUnobservable : Prop :=
  ∀ s t : State, sameButHidden s t → sameOutcomeButHidden (step s) (step t)

/-- The block never faults, and refuses nothing but an access made while reset is held (R174 "An accepted command
cannot fail", R210). Model's choice: that `exec` answers a next state, the error entry, where its check fails, and a
step where the latched word is no command (log 7), and that a step with BUSY = 0 at the engine's turn or with no input
left answers one (log 4). Where a check fails, the answered state is no completion. -/
def Obligations.StepStopsOnlyOnAccessInReset : Prop :=
  (∀ (s : State) (i : Instr), ∃ t : State, exec i s = .next t)
  ∧ ∀ s : State, s.inputs.head? ≠ some .accessInReset → ∃ t : State, step s = .next t

/-- The invariant of the block holds after reset (R40). -/
def Obligations.InvariantHoldsAtReset : Prop := State.reset.Inv

/-- Every step from a state of the invariant leads to one (R28 to R31, R171, R174). -/
def Obligations.EveryStepKeepsInvariant : Prop :=
  ∀ s t : State, s.Inv → step s = .next t → t.Inv
end

