-- ==== Sys2Proof/Laws/Decode.lean ====
section
/-! SUPPORT. The decoder by rows of the opcode map. -/

namespace Sys2Proof

/-- A byte is a row's OP exactly when the row is found by it (30_encoding.md R85). -/
theorem opcodeOfByte_eq_some {b : BitVec 8} {o : Opcode} : opcodeOfByte b = some o ↔ b = o.byte := by
  constructor
  · intro h
    unfold opcodeOfByte at h
    by_cases h1 : b = 0x01#8
    · simp [h1] at h; subst h; exact h1
    by_cases h2 : b = 0x02#8
    · simp [h2] at h; subst h; exact h2
    by_cases h3 : b = 0x03#8
    · simp [h3] at h; subst h; exact h3
    by_cases h4 : b = 0x04#8
    · simp [h4] at h; subst h; exact h4
    by_cases h5 : b = 0x08#8
    · simp [h5] at h; subst h; exact h5
    by_cases h6 : b = 0x0E#8
    · simp [h6] at h; subst h; exact h6
    by_cases h7 : b = 0x0F#8
    · simp [h7] at h; subst h; exact h7
    simp [h1, h2, h3, h4, h5, h6, h7] at h
  · rintro rfl
    cases o <;> rfl

theorem opcode_build (o : Opcode) (w : Word) : (o.build w).opcode = o := by cases o <;> rfl

/-- Everything `decode` can answer (30_encoding.md R85). -/
theorem decode_eq_ok {w : Word} {i : Instr} :
    decode w = .ok i ↔ opField w = i.opcode.byte ∧ w &&& i.opcode.maskWord = i.opcode.matchWord
      ∧ i = i.opcode.build w := by
  unfold decode
  cases ho : opcodeOfByte (opField w) with
  | none =>
    simp only [reduceCtorEq, false_iff]
    rintro ⟨h, -⟩
    rw [opcodeOfByte_eq_some.2 h] at ho
    exact absurd ho (by simp)
  | some o =>
    have hb := opcodeOfByte_eq_some.1 ho
    simp only []
    constructor
    · intro h
      by_cases hm : w &&& o.maskWord = o.matchWord
      · rw [if_pos hm] at h
        have hi : o.build w = i := by simpa using h
        subst hi
        rw [opcode_build]
        exact ⟨hb, hm, rfl⟩
      · rw [if_neg hm] at h
        exact absurd h (by simp)
    · rintro ⟨h1, h2, h3⟩
      have ho' : o = i.opcode := by
        have := opcodeOfByte_eq_some.2 h1
        rw [ho] at this
        exact Option.some.inj this
      subst ho'
      rw [if_pos h2, ← h3]

end Sys2Proof
end

