-- ==== Sys2Proof/Laws/Operands.lean ====
section
/-! SUPPORT. What the operand forms of Machine/Operands.lean and Machine/Flags.lean do: bytes of words, masking, the
register map. -/

namespace Sys2Proof.Machine

/-- Byte k of LE64(b) is b[k] (00_scope.md R10). -/
@[simp] theorem byteOf_le64 (b : Vector Byte 8) (k : Fin 8) : byteOf (le64 b) k.val = b[k] := by
  apply BitVec.eq_of_getLsbD_eq
  intro i hi
  obtain ⟨k, hk⟩ := k
  have h8 : k = 0 ∨ k = 1 ∨ k = 2 ∨ k = 3 ∨ k = 4 ∨ k = 5 ∨ k = 6 ∨ k = 7 := by omega
  rcases h8 with rfl | rfl | rfl | rfl | rfl | rfl | rfl | rfl <;>
    simp [byteOf, le64, hi] <;> grind

/-- A word is determined by its bytes. -/
theorem word_eq_of_bytes {w w' : Word} (h : ∀ k : Fin 8, byteOf w k.val = byteOf w' k.val) : w = w' := by
  apply BitVec.eq_of_getLsbD_eq
  intro i hi
  have hk := congrArg (fun b => b.getLsbD (i % 8)) (h ⟨i / 8, by omega⟩)
  have h1 : i % 8 < 8 := Nat.mod_lt _ (by decide)
  have h2 : 8 * (i / 8) + i % 8 = i := Nat.div_add_mod i 8
  simpa [byteOf, BitVec.getLsbD_extractLsb', h1, h2] using hk

/-- Byte k of a masked word (10_state.md R33, 40_blake2b.md R107). -/
@[simp] theorem byteOf_keepBytes (base limit : Nat) (w : Word) (k : Fin 8) :
    byteOf (keepBytes base limit w) k.val = if base + k.val < limit then byteOf w k.val else 0#8 := by
  simp [keepBytes]

@[simp] theorem regAt_offM (i : Fin 16) : regAt (offM i) = .m i := by revert i; decide

@[simp] theorem regAt_offDig (i : Fin 8) : regAt (offDig i) = .dig i := by revert i; decide

@[simp] theorem regAt_offX (i : Fin 128) : regAt (offX i) = .x i := by revert i; decide

@[simp] theorem regAt_offY (i : Fin 128) : regAt (offY i) = .y i := by revert i; decide

@[simp] theorem regAt_offR (i : Fin 128) : regAt (offR i) = .r i := by revert i; decide

/-- The register map by ranges of offsets (20_memory.md R54), with the places of the buffers' words. -/
theorem regAt_ranges (off : BitVec 12) :
    (off.toNat < 0x008 ∧ regAt off = .id) ∨ (0x008 ≤ off.toNat ∧ off.toNat < 0x010 ∧ regAt off = .cmd)
    ∨ (0x010 ≤ off.toNat ∧ off.toNat < 0x018 ∧ regAt off = .status)
    ∨ (0x018 ≤ off.toNat ∧ off.toNat < 0x020 ∧ regAt off = .count)
    ∨ (0x020 ≤ off.toNat ∧ off.toNat < 0x028 ∧ regAt off = .irqEn)
    ∨ (0x028 ≤ off.toNat ∧ off.toNat < 0x030 ∧ regAt off = .irqPend)
    ∨ (0x030 ≤ off.toNat ∧ off.toNat < 0x080 ∧ regAt off = .reserved)
    ∨ (∃ i : Fin 16, off.toNat / 8 = 0x080 / 8 + i.val ∧ regAt off = .m i)
    ∨ (∃ i : Fin 8, off.toNat / 8 = 0x100 / 8 + i.val ∧ regAt off = .dig i)
    ∨ (0x140 ≤ off.toNat ∧ off.toNat < 0x400 ∧ regAt off = .reserved)
    ∨ (∃ i : Fin 128, off.toNat / 8 = 0x400 / 8 + i.val ∧ regAt off = .x i)
    ∨ (∃ i : Fin 128, off.toNat / 8 = 0x800 / 8 + i.val ∧ regAt off = .y i)
    ∨ (∃ i : Fin 128, off.toNat / 8 = 0xC00 / 8 + i.val ∧ regAt off = .r i) := by
  have hoff : off.toNat < 4096 := off.isLt
  by_cases h0 : off.toNat < 0x008
  · left
    exact ⟨h0, by unfold regAt; simp only [if_pos h0]⟩
  by_cases h1 : off.toNat < 0x010
  · iterate 1 right
    left
    exact ⟨by omega, by omega, by unfold regAt; simp only [if_neg h0, if_pos h1]⟩
  by_cases h2 : off.toNat < 0x018
  · iterate 2 right
    left
    exact ⟨by omega, by omega, by unfold regAt; simp only [if_neg h0, if_neg h1, if_pos h2]⟩
  by_cases h3 : off.toNat < 0x020
  · iterate 3 right
    left
    exact ⟨by omega, by omega, by unfold regAt; simp only [if_neg h0, if_neg h1, if_neg h2, if_pos h3]⟩
  by_cases h4 : off.toNat < 0x028
  · iterate 4 right
    left
    exact ⟨by omega, by omega, by unfold regAt; simp only [if_neg h0, if_neg h1, if_neg h2, if_neg h3, if_pos h4]⟩
  by_cases h5 : off.toNat < 0x030
  · iterate 5 right
    left
    exact ⟨by omega, by omega, by unfold regAt; simp only [if_neg h0, if_neg h1, if_neg h2, if_neg h3, if_neg h4, if_pos h5]⟩
  by_cases h6 : off.toNat < 0x080
  · iterate 6 right
    left
    exact ⟨by omega, by omega, by unfold regAt; simp only [if_neg h0, if_neg h1, if_neg h2, if_neg h3, if_neg h4, if_neg h5, if_pos h6]⟩
  by_cases h7 : off.toNat < 0x100
  · iterate 7 right
    left
    exact ⟨Fin.ofNat 16 (off.toNat / 8), by simp only [Fin.val_ofNat]; omega, by unfold regAt; simp only [if_neg h0, if_neg h1, if_neg h2, if_neg h3, if_neg h4, if_neg h5, if_neg h6, if_pos h7]⟩
  by_cases h8 : off.toNat < 0x140
  · iterate 8 right
    left
    exact ⟨Fin.ofNat 8 (off.toNat / 8), by simp only [Fin.val_ofNat]; omega, by unfold regAt; simp only [if_neg h0, if_neg h1, if_neg h2, if_neg h3, if_neg h4, if_neg h5, if_neg h6, if_neg h7, if_pos h8]⟩
  by_cases h9 : off.toNat < 0x400
  · iterate 9 right
    left
    exact ⟨by omega, by omega, by unfold regAt; simp only [if_neg h0, if_neg h1, if_neg h2, if_neg h3, if_neg h4, if_neg h5, if_neg h6, if_neg h7, if_neg h8, if_pos h9]⟩
  by_cases h10 : off.toNat < 0x800
  · iterate 10 right
    left
    exact ⟨Fin.ofNat 128 (off.toNat / 8), by simp only [Fin.val_ofNat]; omega, by unfold regAt; simp only [if_neg h0, if_neg h1, if_neg h2, if_neg h3, if_neg h4, if_neg h5, if_neg h6, if_neg h7, if_neg h8, if_neg h9, if_pos h10]⟩
  by_cases h11 : off.toNat < 0xC00
  · iterate 11 right
    left
    exact ⟨Fin.ofNat 128 (off.toNat / 8), by simp only [Fin.val_ofNat]; omega, by unfold regAt; simp only [if_neg h0, if_neg h1, if_neg h2, if_neg h3, if_neg h4, if_neg h5, if_neg h6, if_neg h7, if_neg h8, if_neg h9, if_neg h10, if_pos h11]⟩
  iterate 12 right
  exact ⟨Fin.ofNat 128 (off.toNat / 8), by simp only [Fin.val_ofNat]; omega, by unfold regAt; simp only [if_neg h0, if_neg h1, if_neg h2, if_neg h3, if_neg h4, if_neg h5, if_neg h6, if_neg h7, if_neg h8, if_neg h9, if_neg h10, if_neg h11]⟩

theorem accessFormOk_iff (off : BitVec 12) (n : Nat) : accessFormOk off n = true ↔ n = 8 ∧ off.toNat % 8 = 0 := by
  simp [accessFormOk]

@[simp] theorem accessFormOk_offM (i : Fin 16) : accessFormOk (offM i) 8 = true := by revert i; decide

@[simp] theorem accessFormOk_offDig (i : Fin 8) : accessFormOk (offDig i) 8 = true := by revert i; decide

@[simp] theorem accessFormOk_offX (i : Fin 128) : accessFormOk (offX i) 8 = true := by revert i; decide

@[simp] theorem accessFormOk_offY (i : Fin 128) : accessFormOk (offY i) 8 = true := by revert i; decide

@[simp] theorem accessFormOk_offR (i : Fin 128) : accessFormOk (offR i) 8 = true := by revert i; decide

end Sys2Proof.Machine
end

