-- ==== Sys2Proof/Laws/State.lean ====
section
/-! SUPPORT. One lemma per field per named update of State, true by rfl, so that no proof unfolds a record update. -/

namespace Sys2Proof.Machine

section
variable (s : State)

/-! `State.raiseCmdError` -/
@[simp] theorem State.raiseCmdError_busy (e : ErrCode) : (s.raiseCmdError e).busy = s.busy := rfl
@[simp] theorem State.raiseCmdError_err (e : ErrCode) : (s.raiseCmdError e).err = true := rfl
@[simp] theorem State.raiseCmdError_errcode (e : ErrCode) : (s.raiseCmdError e).errcode = if s.err then s.errcode else e := rfl
@[simp] theorem State.raiseCmdError_hstate (e : ErrCode) : (s.raiseCmdError e).hstate = s.hstate := rfl
@[simp] theorem State.raiseCmdError_nn (e : ErrCode) : (s.raiseCmdError e).nn = s.nn := rfl
@[simp] theorem State.raiseCmdError_t (e : ErrCode) : (s.raiseCmdError e).t = s.t := rfl
@[simp] theorem State.raiseCmdError_h (e : ErrCode) : (s.raiseCmdError e).h = s.h := rfl
@[simp] theorem State.raiseCmdError_m (e : ErrCode) : (s.raiseCmdError e).m = s.m := rfl
@[simp] theorem State.raiseCmdError_x (e : ErrCode) : (s.raiseCmdError e).x = s.x := rfl
@[simp] theorem State.raiseCmdError_y (e : ErrCode) : (s.raiseCmdError e).y = s.y := rfl
@[simp] theorem State.raiseCmdError_r (e : ErrCode) : (s.raiseCmdError e).r = s.r := rfl
@[simp] theorem State.raiseCmdError_irqEn (e : ErrCode) : (s.raiseCmdError e).irqEn = s.irqEn := rfl
@[simp] theorem State.raiseCmdError_irqPend (e : ErrCode) : (s.raiseCmdError e).irqPend = setErrp s.irqPend := rfl
@[simp] theorem State.raiseCmdError_cur (e : ErrCode) : (s.raiseCmdError e).cur = s.cur := rfl
@[simp] theorem State.raiseCmdError_work (e : ErrCode) : (s.raiseCmdError e).work = s.work := rfl
@[simp] theorem State.raiseCmdError_inputs (e : ErrCode) : (s.raiseCmdError e).inputs = s.inputs := rfl
@[simp] theorem State.raiseCmdError_resp (e : ErrCode) : (s.raiseCmdError e).resp = s.resp := rfl
@[simp] theorem State.raiseCmdError_freeCount (e : ErrCode) : (s.raiseCmdError e).freeCount = s.freeCount := rfl

/-! `State.acceptCommand` -/
@[simp] theorem State.acceptCommand_busy (w : Word) : (s.acceptCommand w).busy = true := rfl
@[simp] theorem State.acceptCommand_err (w : Word) : (s.acceptCommand w).err = s.err := rfl
@[simp] theorem State.acceptCommand_errcode (w : Word) : (s.acceptCommand w).errcode = s.errcode := rfl
@[simp] theorem State.acceptCommand_hstate (w : Word) : (s.acceptCommand w).hstate = s.hstate := rfl
@[simp] theorem State.acceptCommand_nn (w : Word) : (s.acceptCommand w).nn = s.nn := rfl
@[simp] theorem State.acceptCommand_t (w : Word) : (s.acceptCommand w).t = s.t := rfl
@[simp] theorem State.acceptCommand_h (w : Word) : (s.acceptCommand w).h = s.h := rfl
@[simp] theorem State.acceptCommand_m (w : Word) : (s.acceptCommand w).m = s.m := rfl
@[simp] theorem State.acceptCommand_x (w : Word) : (s.acceptCommand w).x = s.x := rfl
@[simp] theorem State.acceptCommand_y (w : Word) : (s.acceptCommand w).y = s.y := rfl
@[simp] theorem State.acceptCommand_r (w : Word) : (s.acceptCommand w).r = s.r := rfl
@[simp] theorem State.acceptCommand_irqEn (w : Word) : (s.acceptCommand w).irqEn = s.irqEn := rfl
@[simp] theorem State.acceptCommand_irqPend (w : Word) : (s.acceptCommand w).irqPend = s.irqPend := rfl
@[simp] theorem State.acceptCommand_cur (w : Word) : (s.acceptCommand w).cur = w := rfl
@[simp] theorem State.acceptCommand_work (w : Word) : (s.acceptCommand w).work = Config.freeWork s.freeCount := rfl
@[simp] theorem State.acceptCommand_inputs (w : Word) : (s.acceptCommand w).inputs = s.inputs := rfl
@[simp] theorem State.acceptCommand_resp (w : Word) : (s.acceptCommand w).resp = s.resp := rfl
@[simp] theorem State.acceptCommand_freeCount (w : Word) : (s.acceptCommand w).freeCount = s.freeCount + 1 := rfl

/-! `State.finishCommand` -/
@[simp] theorem State.finishCommand_busy : (s.finishCommand).busy = false := rfl
@[simp] theorem State.finishCommand_err : (s.finishCommand).err = s.err := rfl
@[simp] theorem State.finishCommand_errcode : (s.finishCommand).errcode = s.errcode := rfl
@[simp] theorem State.finishCommand_hstate : (s.finishCommand).hstate = s.hstate := rfl
@[simp] theorem State.finishCommand_nn : (s.finishCommand).nn = s.nn := rfl
@[simp] theorem State.finishCommand_t : (s.finishCommand).t = s.t := rfl
@[simp] theorem State.finishCommand_h : (s.finishCommand).h = s.h := rfl
@[simp] theorem State.finishCommand_m : (s.finishCommand).m = s.m := rfl
@[simp] theorem State.finishCommand_x : (s.finishCommand).x = s.x := rfl
@[simp] theorem State.finishCommand_y : (s.finishCommand).y = s.y := rfl
@[simp] theorem State.finishCommand_r : (s.finishCommand).r = s.r := rfl
@[simp] theorem State.finishCommand_irqEn : (s.finishCommand).irqEn = s.irqEn := rfl
@[simp] theorem State.finishCommand_irqPend : (s.finishCommand).irqPend = setDone s.irqPend := rfl
@[simp] theorem State.finishCommand_cur : (s.finishCommand).cur = 0#64 := rfl
@[simp] theorem State.finishCommand_work : (s.finishCommand).work = { s.work with progress := 0 } := rfl
@[simp] theorem State.finishCommand_inputs : (s.finishCommand).inputs = s.inputs := rfl
@[simp] theorem State.finishCommand_resp : (s.finishCommand).resp = s.resp := rfl
@[simp] theorem State.finishCommand_freeCount : (s.finishCommand).freeCount = s.freeCount := rfl

/-! `State.rejectRunning` -/
@[simp] theorem State.rejectRunning_busy (e : ErrCode) : (s.rejectRunning e).busy = false := rfl
@[simp] theorem State.rejectRunning_err (e : ErrCode) : (s.rejectRunning e).err = true := rfl
@[simp] theorem State.rejectRunning_errcode (e : ErrCode) : (s.rejectRunning e).errcode = if s.err then s.errcode else e := rfl
@[simp] theorem State.rejectRunning_hstate (e : ErrCode) : (s.rejectRunning e).hstate = s.hstate := rfl
@[simp] theorem State.rejectRunning_nn (e : ErrCode) : (s.rejectRunning e).nn = s.nn := rfl
@[simp] theorem State.rejectRunning_t (e : ErrCode) : (s.rejectRunning e).t = s.t := rfl
@[simp] theorem State.rejectRunning_h (e : ErrCode) : (s.rejectRunning e).h = s.h := rfl
@[simp] theorem State.rejectRunning_m (e : ErrCode) : (s.rejectRunning e).m = s.m := rfl
@[simp] theorem State.rejectRunning_x (e : ErrCode) : (s.rejectRunning e).x = s.x := rfl
@[simp] theorem State.rejectRunning_y (e : ErrCode) : (s.rejectRunning e).y = s.y := rfl
@[simp] theorem State.rejectRunning_r (e : ErrCode) : (s.rejectRunning e).r = s.r := rfl
@[simp] theorem State.rejectRunning_irqEn (e : ErrCode) : (s.rejectRunning e).irqEn = s.irqEn := rfl
@[simp] theorem State.rejectRunning_irqPend (e : ErrCode) : (s.rejectRunning e).irqPend = setErrp s.irqPend := rfl
@[simp] theorem State.rejectRunning_cur (e : ErrCode) : (s.rejectRunning e).cur = 0#64 := rfl
@[simp] theorem State.rejectRunning_work (e : ErrCode) : (s.rejectRunning e).work = { s.work with progress := 0 } := rfl
@[simp] theorem State.rejectRunning_inputs (e : ErrCode) : (s.rejectRunning e).inputs = s.inputs := rfl
@[simp] theorem State.rejectRunning_resp (e : ErrCode) : (s.rejectRunning e).resp = s.resp := rfl
@[simp] theorem State.rejectRunning_freeCount (e : ErrCode) : (s.rejectRunning e).freeCount = s.freeCount := rfl

/-! `State.resetStep` -/
@[simp] theorem State.resetStep_busy : (s.resetStep).busy = false := rfl
@[simp] theorem State.resetStep_err : (s.resetStep).err = false := rfl
@[simp] theorem State.resetStep_errcode : (s.resetStep).errcode = .eNone := rfl
@[simp] theorem State.resetStep_hstate : (s.resetStep).hstate = .idle := rfl
@[simp] theorem State.resetStep_nn : (s.resetStep).nn = 0#7 := rfl
@[simp] theorem State.resetStep_t : (s.resetStep).t = 0#64 := rfl
@[simp] theorem State.resetStep_h : (s.resetStep).h = zeroWords 8 := rfl
@[simp] theorem State.resetStep_m : (s.resetStep).m = zeroWords 16 := rfl
@[simp] theorem State.resetStep_x : (s.resetStep).x = zeroWords 128 := rfl
@[simp] theorem State.resetStep_y : (s.resetStep).y = zeroWords 128 := rfl
@[simp] theorem State.resetStep_r : (s.resetStep).r = zeroWords 128 := rfl
@[simp] theorem State.resetStep_irqEn : (s.resetStep).irqEn = 0#2 := rfl
@[simp] theorem State.resetStep_irqPend : (s.resetStep).irqPend = 0#2 := rfl
@[simp] theorem State.resetStep_cur : (s.resetStep).cur = 0#64 := rfl
@[simp] theorem State.resetStep_work : (s.resetStep).work = EngineWork.zero := rfl
@[simp] theorem State.resetStep_inputs : (s.resetStep).inputs = s.inputs := rfl
@[simp] theorem State.resetStep_resp : (s.resetStep).resp = none := rfl
@[simp] theorem State.resetStep_freeCount : (s.resetStep).freeCount = s.freeCount := rfl

/-! `State.begin` -/
@[simp] theorem State.begin_busy (rest : List Input) : (s.begin rest).busy = s.busy := rfl
@[simp] theorem State.begin_err (rest : List Input) : (s.begin rest).err = s.err := rfl
@[simp] theorem State.begin_errcode (rest : List Input) : (s.begin rest).errcode = s.errcode := rfl
@[simp] theorem State.begin_hstate (rest : List Input) : (s.begin rest).hstate = s.hstate := rfl
@[simp] theorem State.begin_nn (rest : List Input) : (s.begin rest).nn = s.nn := rfl
@[simp] theorem State.begin_t (rest : List Input) : (s.begin rest).t = s.t := rfl
@[simp] theorem State.begin_h (rest : List Input) : (s.begin rest).h = s.h := rfl
@[simp] theorem State.begin_m (rest : List Input) : (s.begin rest).m = s.m := rfl
@[simp] theorem State.begin_x (rest : List Input) : (s.begin rest).x = s.x := rfl
@[simp] theorem State.begin_y (rest : List Input) : (s.begin rest).y = s.y := rfl
@[simp] theorem State.begin_r (rest : List Input) : (s.begin rest).r = s.r := rfl
@[simp] theorem State.begin_irqEn (rest : List Input) : (s.begin rest).irqEn = s.irqEn := rfl
@[simp] theorem State.begin_irqPend (rest : List Input) : (s.begin rest).irqPend = s.irqPend := rfl
@[simp] theorem State.begin_cur (rest : List Input) : (s.begin rest).cur = s.cur := rfl
@[simp] theorem State.begin_work (rest : List Input) : (s.begin rest).work = s.work := rfl
@[simp] theorem State.begin_inputs (rest : List Input) : (s.begin rest).inputs = rest := rfl
@[simp] theorem State.begin_resp (rest : List Input) : (s.begin rest).resp = none := rfl
@[simp] theorem State.begin_freeCount (rest : List Input) : (s.begin rest).freeCount = s.freeCount := rfl

/-! `initEffect` -/
@[simp] theorem initEffect_busy (n : BitVec 7) : (initEffect n s).busy = s.busy := rfl
@[simp] theorem initEffect_err (n : BitVec 7) : (initEffect n s).err = s.err := rfl
@[simp] theorem initEffect_errcode (n : BitVec 7) : (initEffect n s).errcode = s.errcode := rfl
@[simp] theorem initEffect_hstate (n : BitVec 7) : (initEffect n s).hstate = .absorb := rfl
@[simp] theorem initEffect_nn (n : BitVec 7) : (initEffect n s).nn = n := rfl
@[simp] theorem initEffect_t (n : BitVec 7) : (initEffect n s).t = 0#64 := rfl
@[simp] theorem initEffect_h (n : BitVec 7) : (initEffect n s).h = hinit n := rfl
@[simp] theorem initEffect_m (n : BitVec 7) : (initEffect n s).m = s.m := rfl
@[simp] theorem initEffect_x (n : BitVec 7) : (initEffect n s).x = s.x := rfl
@[simp] theorem initEffect_y (n : BitVec 7) : (initEffect n s).y = s.y := rfl
@[simp] theorem initEffect_r (n : BitVec 7) : (initEffect n s).r = s.r := rfl
@[simp] theorem initEffect_irqEn (n : BitVec 7) : (initEffect n s).irqEn = s.irqEn := rfl
@[simp] theorem initEffect_irqPend (n : BitVec 7) : (initEffect n s).irqPend = s.irqPend := rfl
@[simp] theorem initEffect_cur (n : BitVec 7) : (initEffect n s).cur = s.cur := rfl
@[simp] theorem initEffect_work (n : BitVec 7) : (initEffect n s).work = s.work := rfl
@[simp] theorem initEffect_inputs (n : BitVec 7) : (initEffect n s).inputs = s.inputs := rfl
@[simp] theorem initEffect_resp (n : BitVec 7) : (initEffect n s).resp = s.resp := rfl
@[simp] theorem initEffect_freeCount (n : BitVec 7) : (initEffect n s).freeCount = s.freeCount := rfl

/-! `blockEffect` -/
@[simp] theorem blockEffect_busy : (blockEffect s).busy = s.busy := rfl
@[simp] theorem blockEffect_err : (blockEffect s).err = s.err := rfl
@[simp] theorem blockEffect_errcode : (blockEffect s).errcode = s.errcode := rfl
@[simp] theorem blockEffect_hstate : (blockEffect s).hstate = s.hstate := rfl
@[simp] theorem blockEffect_nn : (blockEffect s).nn = s.nn := rfl
@[simp] theorem blockEffect_t : (blockEffect s).t = s.t + 128#64 := rfl
@[simp] theorem blockEffect_h : (blockEffect s).h = compress s.h s.m (s.t + 128#64) false := rfl
@[simp] theorem blockEffect_m : (blockEffect s).m = s.m := rfl
@[simp] theorem blockEffect_x : (blockEffect s).x = s.x := rfl
@[simp] theorem blockEffect_y : (blockEffect s).y = s.y := rfl
@[simp] theorem blockEffect_r : (blockEffect s).r = s.r := rfl
@[simp] theorem blockEffect_irqEn : (blockEffect s).irqEn = s.irqEn := rfl
@[simp] theorem blockEffect_irqPend : (blockEffect s).irqPend = s.irqPend := rfl
@[simp] theorem blockEffect_cur : (blockEffect s).cur = s.cur := rfl
@[simp] theorem blockEffect_work : (blockEffect s).work = { s.work with v := workRounds s.h s.m (s.t + 128#64) false } := rfl
@[simp] theorem blockEffect_inputs : (blockEffect s).inputs = s.inputs := rfl
@[simp] theorem blockEffect_resp : (blockEffect s).resp = s.resp := rfl
@[simp] theorem blockEffect_freeCount : (blockEffect s).freeCount = s.freeCount := rfl

/-! `lastEffect` -/
@[simp] theorem lastEffect_busy (len : BitVec 8) : (lastEffect len s).busy = s.busy := rfl
@[simp] theorem lastEffect_err (len : BitVec 8) : (lastEffect len s).err = s.err := rfl
@[simp] theorem lastEffect_errcode (len : BitVec 8) : (lastEffect len s).errcode = s.errcode := rfl
@[simp] theorem lastEffect_hstate (len : BitVec 8) : (lastEffect len s).hstate = .final := rfl
@[simp] theorem lastEffect_nn (len : BitVec 8) : (lastEffect len s).nn = s.nn := rfl
@[simp] theorem lastEffect_t (len : BitVec 8) : (lastEffect len s).t = s.t + len.setWidth 64 := rfl
@[simp] theorem lastEffect_h (len : BitVec 8) : (lastEffect len s).h = compress s.h (pad s.m len.toNat) (s.t + len.setWidth 64) true := rfl
@[simp] theorem lastEffect_m (len : BitVec 8) : (lastEffect len s).m = s.m := rfl
@[simp] theorem lastEffect_x (len : BitVec 8) : (lastEffect len s).x = s.x := rfl
@[simp] theorem lastEffect_y (len : BitVec 8) : (lastEffect len s).y = s.y := rfl
@[simp] theorem lastEffect_r (len : BitVec 8) : (lastEffect len s).r = s.r := rfl
@[simp] theorem lastEffect_irqEn (len : BitVec 8) : (lastEffect len s).irqEn = s.irqEn := rfl
@[simp] theorem lastEffect_irqPend (len : BitVec 8) : (lastEffect len s).irqPend = s.irqPend := rfl
@[simp] theorem lastEffect_cur (len : BitVec 8) : (lastEffect len s).cur = s.cur := rfl
@[simp] theorem lastEffect_work (len : BitVec 8) : (lastEffect len s).work = { s.work with v := workRounds s.h (pad s.m len.toNat) (s.t + len.setWidth 64) true } := rfl
@[simp] theorem lastEffect_inputs (len : BitVec 8) : (lastEffect len s).inputs = s.inputs := rfl
@[simp] theorem lastEffect_resp (len : BitVec 8) : (lastEffect len s).resp = s.resp := rfl
@[simp] theorem lastEffect_freeCount (len : BitVec 8) : (lastEffect len s).freeCount = s.freeCount := rfl

/-! `gcompEffect` -/
@[simp] theorem gcompEffect_busy : (gcompEffect s).busy = s.busy := by unfold gcompEffect; rfl
@[simp] theorem gcompEffect_err : (gcompEffect s).err = s.err := by unfold gcompEffect; rfl
@[simp] theorem gcompEffect_errcode : (gcompEffect s).errcode = s.errcode := by unfold gcompEffect; rfl
@[simp] theorem gcompEffect_hstate : (gcompEffect s).hstate = s.hstate := by unfold gcompEffect; rfl
@[simp] theorem gcompEffect_nn : (gcompEffect s).nn = s.nn := by unfold gcompEffect; rfl
@[simp] theorem gcompEffect_t : (gcompEffect s).t = s.t := by unfold gcompEffect; rfl
@[simp] theorem gcompEffect_h : (gcompEffect s).h = s.h := by unfold gcompEffect; rfl
@[simp] theorem gcompEffect_m : (gcompEffect s).m = s.m := by unfold gcompEffect; rfl
@[simp] theorem gcompEffect_x : (gcompEffect s).x = s.x := by unfold gcompEffect; rfl
@[simp] theorem gcompEffect_y : (gcompEffect s).y = s.y := by unfold gcompEffect; rfl
@[simp] theorem gcompEffect_r : (gcompEffect s).r = gFun s.x s.y := by unfold gcompEffect; rfl
@[simp] theorem gcompEffect_irqEn : (gcompEffect s).irqEn = s.irqEn := by unfold gcompEffect; rfl
@[simp] theorem gcompEffect_irqPend : (gcompEffect s).irqPend = s.irqPend := by unfold gcompEffect; rfl
@[simp] theorem gcompEffect_cur : (gcompEffect s).cur = s.cur := by unfold gcompEffect; rfl
@[simp] theorem gcompEffect_work : (gcompEffect s).work = { s.work with q := permBlock (xorBlock s.x s.y) } := by unfold gcompEffect; rfl
@[simp] theorem gcompEffect_inputs : (gcompEffect s).inputs = s.inputs := by unfold gcompEffect; rfl
@[simp] theorem gcompEffect_resp : (gcompEffect s).resp = s.resp := by unfold gcompEffect; rfl
@[simp] theorem gcompEffect_freeCount : (gcompEffect s).freeCount = s.freeCount := by unfold gcompEffect; rfl

/-! `zeroizeEffect` -/
@[simp] theorem zeroizeEffect_busy : (zeroizeEffect s).busy = s.busy := rfl
@[simp] theorem zeroizeEffect_err : (zeroizeEffect s).err = s.err := rfl
@[simp] theorem zeroizeEffect_errcode : (zeroizeEffect s).errcode = s.errcode := rfl
@[simp] theorem zeroizeEffect_hstate : (zeroizeEffect s).hstate = .idle := rfl
@[simp] theorem zeroizeEffect_nn : (zeroizeEffect s).nn = 0#7 := rfl
@[simp] theorem zeroizeEffect_t : (zeroizeEffect s).t = 0#64 := rfl
@[simp] theorem zeroizeEffect_h : (zeroizeEffect s).h = zeroWords 8 := rfl
@[simp] theorem zeroizeEffect_m : (zeroizeEffect s).m = zeroWords 16 := rfl
@[simp] theorem zeroizeEffect_x : (zeroizeEffect s).x = zeroWords 128 := rfl
@[simp] theorem zeroizeEffect_y : (zeroizeEffect s).y = zeroWords 128 := rfl
@[simp] theorem zeroizeEffect_r : (zeroizeEffect s).r = zeroWords 128 := rfl
@[simp] theorem zeroizeEffect_irqEn : (zeroizeEffect s).irqEn = s.irqEn := rfl
@[simp] theorem zeroizeEffect_irqPend : (zeroizeEffect s).irqPend = s.irqPend := rfl
@[simp] theorem zeroizeEffect_cur : (zeroizeEffect s).cur = s.cur := rfl
@[simp] theorem zeroizeEffect_work : (zeroizeEffect s).work = { s.work with v := zeroWords 16, q := zeroWords 128 } := rfl
@[simp] theorem zeroizeEffect_inputs : (zeroizeEffect s).inputs = s.inputs := rfl
@[simp] theorem zeroizeEffect_resp : (zeroizeEffect s).resp = s.resp := rfl
@[simp] theorem zeroizeEffect_freeCount : (zeroizeEffect s).freeCount = s.freeCount := rfl

/-! `ackEffect` -/
@[simp] theorem ackEffect_busy : (ackEffect s).busy = s.busy := rfl
@[simp] theorem ackEffect_err : (ackEffect s).err = false := rfl
@[simp] theorem ackEffect_errcode : (ackEffect s).errcode = .eNone := rfl
@[simp] theorem ackEffect_hstate : (ackEffect s).hstate = s.hstate := rfl
@[simp] theorem ackEffect_nn : (ackEffect s).nn = s.nn := rfl
@[simp] theorem ackEffect_t : (ackEffect s).t = s.t := rfl
@[simp] theorem ackEffect_h : (ackEffect s).h = s.h := rfl
@[simp] theorem ackEffect_m : (ackEffect s).m = s.m := rfl
@[simp] theorem ackEffect_x : (ackEffect s).x = s.x := rfl
@[simp] theorem ackEffect_y : (ackEffect s).y = s.y := rfl
@[simp] theorem ackEffect_r : (ackEffect s).r = s.r := rfl
@[simp] theorem ackEffect_irqEn : (ackEffect s).irqEn = s.irqEn := rfl
@[simp] theorem ackEffect_irqPend : (ackEffect s).irqPend = s.irqPend := rfl
@[simp] theorem ackEffect_cur : (ackEffect s).cur = s.cur := rfl
@[simp] theorem ackEffect_work : (ackEffect s).work = s.work := rfl
@[simp] theorem ackEffect_inputs : (ackEffect s).inputs = s.inputs := rfl
@[simp] theorem ackEffect_resp : (ackEffect s).resp = s.resp := rfl
@[simp] theorem ackEffect_freeCount : (ackEffect s).freeCount = s.freeCount := rfl

end

end Sys2Proof.Machine
end

