-- ==== Sys2Proof/Laws/Ops.lean ====
section
/-! SUPPORT. One lemma per shared operation that says once everything it can do: checks, issue, window accesses,
commands, and one step. Later proofs cite these instead of unfolding. -/

namespace Sys2Proof.Machine

/-- What a command does where its check passes, before the completion (R174). -/
def effectOf : Instr → State → State
  | .init64 => initEffect 64#7
  | .initv nn => initEffect (nn.setWidth 7)
  | .block => blockEffect
  | .last len => lastEffect len
  | .gcomp => gcompEffect
  | .zeroize => zeroizeEffect
  | .ack => ackEffect

/-! What no command's own effect touches: the engine's latch, the interrupt registers and the model's own fields. -/

@[simp] theorem effectOf_busy (i : Instr) (s : State) : (effectOf i s).busy = s.busy := by
  cases i <;> simp [effectOf]

@[simp] theorem effectOf_irqEn (i : Instr) (s : State) : (effectOf i s).irqEn = s.irqEn := by
  cases i <;> simp [effectOf]

@[simp] theorem effectOf_irqPend (i : Instr) (s : State) : (effectOf i s).irqPend = s.irqPend := by
  cases i <;> simp [effectOf]

@[simp] theorem effectOf_cur (i : Instr) (s : State) : (effectOf i s).cur = s.cur := by
  cases i <;> simp [effectOf]

@[simp] theorem effectOf_inputs (i : Instr) (s : State) : (effectOf i s).inputs = s.inputs := by
  cases i <;> simp [effectOf]

@[simp] theorem effectOf_resp (i : Instr) (s : State) : (effectOf i s).resp = s.resp := by
  cases i <;> simp [effectOf]

@[simp] theorem effectOf_freeCount (i : Instr) (s : State) : (effectOf i s).freeCount = s.freeCount := by
  cases i <;> simp [effectOf]

theorem runCommand_eq (i : Instr) (f : State → State) (s : State) :
    runCommand i f s =
      if checkInstr i s = .eNone then .next (f s).finishCommand else .next (s.rejectRunning (checkInstr i s)) := by
  unfold runCommand
  cases checkInstr i s <;> rfl

/-- Everything `exec` can do. -/
theorem exec_eq (i : Instr) (s : State) :
    exec i s = if checkInstr i s = .eNone then .next (effectOf i s).finishCommand
      else .next (s.rejectRunning (checkInstr i s)) := by
  cases i <;> simp only [exec, execInit64, execInitv, execBlock, execLast, execGcomp, execZeroize, execAck, effectOf,
    runCommand_eq]

theorem exec_of_check {i : Instr} {s : State} (h : checkInstr i s = .eNone) :
    exec i s = .next (effectOf i s).finishCommand := by
  rw [exec_eq, if_pos h]

theorem exec_of_reject {i : Instr} {s : State} (h : checkInstr i s ≠ .eNone) :
    exec i s = .next (s.rejectRunning (checkInstr i s)) := by
  rw [exec_eq, if_neg h]

theorem exec_next {i : Instr} {s t : State} (h : exec i s = .next t) :
    (checkInstr i s = .eNone ∧ t = (effectOf i s).finishCommand)
      ∨ (checkInstr i s ≠ .eNone ∧ t = s.rejectRunning (checkInstr i s)) := by
  rw [exec_eq] at h
  by_cases hc : checkInstr i s = .eNone
  · rw [if_pos hc] at h
    exact .inl ⟨hc, (Host.Outcome.next.inj h).symm⟩
  · rw [if_neg hc] at h
    exact .inr ⟨hc, (Host.Outcome.next.inj h).symm⟩

@[simp] theorem checkInstr_init64 (s : State) : checkInstr .init64 s = .eNone := rfl

@[simp] theorem checkInstr_gcomp (s : State) : checkInstr .gcomp s = .eNone := rfl

@[simp] theorem checkInstr_zeroize (s : State) : checkInstr .zeroize s = .eNone := rfl

@[simp] theorem checkInstr_ack (s : State) : checkInstr .ack s = .eNone := rfl

theorem checkInstr_initv {nn : BitVec 8} {s : State} :
    checkInstr (.initv nn) s = .eNone ↔ 1 ≤ nn.toNat ∧ nn.toNat ≤ 64 := by
  simp only [checkInstr]
  have h : nn = 0#8 ↔ nn.toNat = 0 := by rw [← BitVec.toNat_inj]; simp
  by_cases hb : nn = 0#8 ∨ 64 < nn.toNat
  · simp only [hb, if_true, reduceCtorEq, false_iff]; rw [h] at hb; omega
  · simp only [hb, if_false, true_iff]; rw [h] at hb; omega

theorem checkInstr_block {s : State} :
    checkInstr .block s = .eNone ↔ s.hstate = .absorb ∧ s.t.toNat ≤ 2 ^ 64 - 1 - 128 := by
  simp only [checkInstr]
  by_cases h : s.hstate = .absorb
  · simp [h]
  · simp [h]

theorem checkInstr_last {len : BitVec 8} {s : State} :
    checkInstr (.last len) s = .eNone ↔
      len.toNat ≤ 128 ∧ s.hstate = .absorb ∧ (len = 0#8 → s.t = 0#64) ∧ s.t.toNat ≤ 2 ^ 64 - 1 - len.toNat := by
  simp only [checkInstr]
  by_cases h1 : 128 < len.toNat
  · simp [h1]
  · by_cases h2 : s.hstate = .absorb
    · by_cases h3 : len = 0#8 ∧ s.t ≠ 0#64
      · simp [h2, h3.1, h3.2]
      · by_cases h4 : 2 ^ 64 - 1 - len.toNat < s.t.toNat
        · simp only [h1, h2, h3, h4, ne_eq, not_true_eq_false, if_true, if_false]
          constructor
          · simp
          · intro h; omega
        · simp only [h1, h2, h3, h4, ne_eq, not_true_eq_false, if_false, true_iff]
          refine ⟨by omega, trivial, ?_, by omega⟩
          intro h
          by_contra h'
          exact h3 ⟨h, h'⟩
    · simp [h1, h2]

/-- The check depends on HSTATE and T alone (R172). -/
theorem checkInstr_congr {i : Instr} {s t : State} (h1 : t.hstate = s.hstate) (h2 : t.t = s.t) :
    checkInstr i t = checkInstr i s := by
  cases i <;> simp only [checkInstr, h1, h2]

theorem checkWord_congr {w : Word} {s t : State} (h1 : t.hstate = s.hstate) (h2 : t.t = s.t) :
    checkWord w t = checkWord w s := by
  unfold checkWord
  cases decode w <;> simp only [checkInstr_congr h1 h2]

theorem checkWord_ok {w : Word} {i : Instr} (s : State) (h : decode w = .ok i) : checkWord w s = checkInstr i s := by
  simp [checkWord, h]

theorem checkWord_eq_none {w : Word} {s : State} (h : checkWord w s = .eNone) :
    ∃ i, decode w = .ok i ∧ checkInstr i s = .eNone := by
  unfold checkWord at h
  cases hd : decode w with
  | ok i => exact ⟨i, rfl, by simpa [hd] using h⟩
  | error e => cases e <;> simp [hd, decodeErrCode] at h

/-- `IssueCommand(w)` (R171), with one arm for all rejections. -/
theorem issueCommand_eq (s : State) (w : Word) :
    s.issueCommand w =
      if s.busy = true then (s, .busErr)
      else if s.err = true ∧ isRecoveryOp w = false then (s, .busErr)
      else if checkWord w s = .eNone then (s.acceptCommand w, .ok)
      else (s.raiseCmdError (checkWord w s), .ok) := by
  unfold State.issueCommand
  cases s.busy <;> cases s.err <;> cases isRecoveryOp w <;> simp <;> cases checkWord w s <;> simp

theorem isRecoveryOp_iff (w : Word) : isRecoveryOp w = true ↔ opField w = 0x0E#8 ∨ opField w = 0x0F#8 := by
  simp [isRecoveryOp]

/-- Everything a host write can do to the block (R57). -/
theorem memWrite_cases (s : State) (off : BitVec 12) (n : Nat) (v : Word) :
    s.memWrite off n v = (s, .busErr)
    ∨ (n = 8 ∧ off = 0x008#12 ∧ s.memWrite off n v = s.issueCommand v)
    ∨ (n = 8 ∧ off = 0x020#12 ∧ s.memWrite off n v = ({ s with irqEn := v.extractLsb' 0 2 }, .ok))
    ∨ (n = 8 ∧ off = 0x028#12 ∧ s.memWrite off n v = ({ s with irqPend := clearPend s.irqPend v }, .ok))
    ∨ (s.busy = false ∧ ∃ i : Fin 16, n = 8 ∧ off = offM i ∧ s.memWrite off n v = ({ s with m := s.m.set i v }, .ok))
    ∨ (s.busy = false ∧ ∃ i : Fin 128, n = 8 ∧ off = offX i ∧ s.memWrite off n v = ({ s with x := s.x.set i v }, .ok))
    ∨ (s.busy = false ∧ ∃ i : Fin 128, n = 8 ∧ off = offY i ∧ s.memWrite off n v = ({ s with y := s.y.set i v }, .ok)) := by
  unfold State.memWrite
  by_cases hf : accessFormOk off n = true
  · rw [if_pos hf]
    obtain ⟨rfl, hal⟩ := (accessFormOk_iff off n).1 hf
    have hoff : ∀ k : Nat, off.toNat = k → off = BitVec.ofNat 12 k := fun k hk => by
      rw [← hk, BitVec.ofNat_toNat, BitVec.setWidth_eq]
    rcases regAt_ranges off with ⟨-, h⟩ | ⟨h1, h2, h⟩ | ⟨-, -, h⟩ | ⟨-, -, h⟩ | ⟨h1, h2, h⟩ | ⟨h1, h2, h⟩ | ⟨-, -, h⟩
      | ⟨i, hi, h⟩ | ⟨i, -, h⟩ | ⟨-, -, h⟩ | ⟨i, hi, h⟩ | ⟨i, hi, h⟩ | ⟨i, -, h⟩ <;> rw [h] <;>
      simp only [State.writeReg]
    · exact .inl trivial
    · exact .inr (.inl ⟨trivial, hoff 8 (by omega), trivial⟩)
    · exact .inl trivial
    · exact .inl trivial
    · exact .inr (.inr (.inl ⟨trivial, hoff 32 (by omega), trivial⟩))
    · exact .inr (.inr (.inr (.inl ⟨trivial, hoff 40 (by omega), trivial⟩)))
    · exact .inl trivial
    · cases s.busy
      · exact .inr (.inr (.inr (.inr (.inl ⟨rfl, i, trivial, hoff _ (by omega), by simp⟩))))
      · exact .inl (by simp)
    · exact .inl trivial
    · exact .inl trivial
    · cases s.busy
      · exact .inr (.inr (.inr (.inr (.inr (.inl ⟨rfl, i, trivial, hoff _ (by omega), by simp⟩)))))
      · exact .inl (by simp)
    · cases s.busy
      · exact .inr (.inr (.inr (.inr (.inr (.inr ⟨rfl, i, trivial, hoff _ (by omega), by simp⟩)))))
      · exact .inl (by simp)
    · exact .inl trivial
  · rw [if_neg hf]
    exact .inl rfl

/-- The window does not see what the environment does next. -/
theorem memRead_begin (s : State) (rest : List Input) (off : BitVec 12) (n : Nat) :
    (s.begin rest).memRead off n = s.memRead off n := by
  unfold State.memRead
  cases accessFormOk off n
  · rfl
  · cases regAt off <;> rfl

theorem issueCommand_begin (s : State) (rest : List Input) (w : Word) :
    (s.begin rest).issueCommand w = ((s.issueCommand w).1.begin rest, (s.issueCommand w).2) := by
  have hc : checkWord w (s.begin rest) = checkWord w s := checkWord_congr rfl rfl
  rw [issueCommand_eq, issueCommand_eq, hc]
  by_cases h1 : s.busy = true
  · simp [h1]
  · by_cases h2 : s.err = true ∧ isRecoveryOp w = false
    · simp [h1, h2]
    · by_cases h3 : checkWord w s = .eNone
      · simp only [State.begin_busy, State.begin_err, h1, h2, h3, if_true, if_false]; rfl
      · simp only [State.begin_busy, State.begin_err, h1, h2, h3, if_false]; rfl

theorem memWrite_begin (s : State) (rest : List Input) (off : BitVec 12) (n : Nat) (v : Word) :
    (s.begin rest).memWrite off n v = ((s.memWrite off n v).1.begin rest, (s.memWrite off n v).2) := by
  unfold State.memWrite
  cases accessFormOk off n
  · rfl
  · simp only [if_true]
    cases regAt off <;> simp only [State.writeReg, issueCommand_begin, State.begin_busy] <;> first | rfl | skip
    all_goals by_cases hb : s.busy = true <;> simp [hb, State.begin]

/-- Everything the engine's turn can do (R174). -/
theorem engineTurn_next {s t : State} (h : engineTurn s = .next t) :
    (s.busy = false ∧ t = s)
    ∨ (s.busy = true ∧ ∃ i, decode s.cur = .ok i ∧ checkInstr i s = .eNone ∧ t = (effectOf i s).finishCommand)
    ∨ (s.busy = true ∧ ∃ e, e ≠ .eNone ∧ checkWord s.cur s = e ∧ t = s.rejectRunning e) := by
  unfold engineTurn at h
  cases hb : s.busy with
  | false =>
    simp only [hb, Bool.false_eq_true, if_false, Host.Outcome.next.injEq] at h
    exact .inl ⟨rfl, h.symm⟩
  | true =>
    simp only [hb, if_true] at h
    cases hd : decode s.cur with
    | ok i =>
      simp only [hd] at h
      rcases exec_next h with ⟨hc, rfl⟩ | ⟨hc, rfl⟩
      · exact .inr (.inl ⟨rfl, i, rfl, hc, rfl⟩)
      · exact .inr (.inr ⟨rfl, _, hc, checkWord_ok s hd, rfl⟩)
    | error e =>
      simp only [hd, Host.Outcome.next.injEq] at h
      refine .inr (.inr ⟨rfl, _, ?_, ?_, h.symm⟩)
      · cases e <;> simp [decodeErrCode]
      · simp [checkWord, hd]

/-- The engine's turn where the latched command passes its check. -/
theorem engineTurn_of_check {s : State} {i : Instr} (hb : s.busy = true) (hd : decode s.cur = .ok i)
    (hc : checkInstr i s = .eNone) : engineTurn s = .next (effectOf i s).finishCommand := by
  unfold engineTurn
  rw [if_pos hb, hd]
  exact exec_of_check hc

theorem step_of_engineNext {s : State} (h : s.engineNext = true) :
    step s = engineTurn (s.begin s.inputs.tail) := by
  unfold step
  unfold State.engineNext at h
  rcases hi : s.inputs with _ | ⟨a, rest⟩
  · rfl
  · rw [hi] at h
    cases a <;> simp at h
    rfl

/-- Everything one step can do (R61): the engine's turn, one host access, or reset. -/
theorem step_next {s t : State} (h : step s = .next t) :
    (s.engineNext = true ∧ engineTurn (s.begin s.inputs.tail) = .next t)
    ∨ (∃ off n rest, s.inputs = .read off n :: rest ∧ t = hostRead off n (s.begin rest))
    ∨ (∃ off n v rest, s.inputs = .write off n v :: rest ∧ t = hostWrite off n v (s.begin rest))
    ∨ (∃ rest, s.inputs = .reset :: rest ∧ t = (s.begin rest).resetStep) := by
  unfold step at h
  unfold State.engineNext
  rcases hi : s.inputs with _ | ⟨a, rest⟩
  · rw [hi] at h
    exact .inl ⟨rfl, h⟩
  · rw [hi] at h
    cases a with
    | read off n => exact .inr (.inl ⟨off, n, rest, rfl, (Host.Outcome.next.inj h).symm⟩)
    | write off n v => exact .inr (.inr (.inl ⟨off, n, v, rest, rfl, (Host.Outcome.next.inj h).symm⟩))
    | engine => exact .inl ⟨rfl, h⟩
    | reset => exact .inr (.inr (.inr ⟨rest, rfl, (Host.Outcome.next.inj h).symm⟩))
    | accessInReset => exact absurd h (by simp [takeInput])

end Sys2Proof.Machine
end

