-- ==== Sys2Proof/Laws/PerInstr.lean ====
section
/-! SUPPORT. Statements about every command as syntax, one lemma per constructor. -/

namespace Sys2Proof.Laws

/-- The word of a command has its row's OP in bits 7:0 and agrees with the row's match under the row's mask
(30_encoding.md R81, R85). -/
def WordMatchesRow.Statement (i : Instr) : Prop :=
  opField (encode i) = i.opcode.byte ∧ encode i &&& i.opcode.maskWord = i.opcode.matchWord

theorem WordMatchesRow.init64 : WordMatchesRow.Statement .init64 := by constructor <;> rfl

theorem WordMatchesRow.initv (nn : BitVec 8) : WordMatchesRow.Statement (.initv nn) := by
  revert nn; unfold WordMatchesRow.Statement; decide

theorem WordMatchesRow.block : WordMatchesRow.Statement .block := by constructor <;> rfl

theorem WordMatchesRow.last (len : BitVec 8) : WordMatchesRow.Statement (.last len) := by
  revert len; unfold WordMatchesRow.Statement; decide

theorem WordMatchesRow.gcomp : WordMatchesRow.Statement .gcomp := by constructor <;> rfl

theorem WordMatchesRow.zeroize : WordMatchesRow.Statement .zeroize := by constructor <;> rfl

theorem WordMatchesRow.ack : WordMatchesRow.Statement .ack := by constructor <;> rfl

end Sys2Proof.Laws
end

