-- ==== Sys2Proof/Laws/Words.lean ====
section
/-! SUPPORT. Arrays of words: reading after a write, byte strings of words, and writing several words at places. -/

namespace Sys2Proof.Machine

/-- Reading word j after word i was written. -/
theorem words_set {n : Nat} (v : Words n) (i : Fin n) (x : Word) (j : Fin n) :
    (v.set i x)[j] = if j = i then x else v[j] := by
  show (v.set i.val x)[j.val] = _
  rw [Vector.getElem_set]
  by_cases h : i.val = j.val
  · have : j = i := by ext; exact h.symm
    simp [this]
  · have : ¬j = i := fun hh => h (by rw [hh])
    simp [h, this]

/-- `bytes(W)` of n words has 8n bytes (00_scope.md R10). -/
@[simp] theorem length_bytesOf {n : Nat} (ws : Words n) : (bytesOf ws).length = 8 * n := by
  simp [bytesOf, List.length_flatMap, wordBytes]; omega

theorem flatMap_wordBytes_getD (l : List Word) (i k : Nat) (hi : i < l.length) (hk : k < 8) :
    (l.flatMap fun w => (wordBytes w).toList).getD (8 * i + k) 0#8 = byteOf l[i] k := by
  induction l generalizing i with
  | nil => simp at hi
  | cons a l ih =>
    rw [List.flatMap_cons]
    have hl : (wordBytes a).toList.length = 8 := by simp
    cases i with
    | zero =>
      rw [List.getD_append _ _ _ _ (by rw [hl]; omega)]
      simp [wordBytes, List.getD_eq_getElem?_getD, hk]
    | succ i =>
      rw [List.getD_append_right _ _ _ _ (by rw [hl]; omega), hl, show 8 * (i + 1) + k - 8 = 8 * i + k by omega]
      exact ih i (by simpa using hi)

/-- Byte 8i + k of `bytes(W)` is byte k of word i (00_scope.md R10). -/
theorem bytesOf_getD {n : Nat} (ws : Words n) (i : Fin n) (k : Fin 8) :
    (bytesOf ws).getD (8 * i.val + k.val) 0#8 = byteOf ws[i] k.val := by
  unfold bytesOf
  rw [flatMap_wordBytes_getD _ _ _ (by simp) k.isLt]
  simp

/-- Writing words at some places leaves every other place alone. -/
theorem scatter_other (ix : Fin 16 → Fin 128) (p : Words 16) (l : List (Fin 16)) (q : Words 128) (j : Fin 128)
    (h : ∀ k, ix k ≠ j) : (l.foldl (fun q k => q.set (ix k) p[k]) q)[j] = q[j] := by
  induction l generalizing q with
  | nil => rfl
  | cons a l ih => rw [List.foldl_cons, ih, words_set, if_neg (Ne.symm (h a))]

/-- Writing words at different places puts each where it goes. -/
theorem scatter_mem (ix : Fin 16 → Fin 128) (hi : Function.Injective ix) (p : Words 16) (l : List (Fin 16))
    (q : Words 128) (k : Fin 16) (hk : k ∈ l) : (l.foldl (fun q k => q.set (ix k) p[k]) q)[ix k] = p[k] := by
  induction l generalizing q with
  | nil => simp at hk
  | cons a l ih =>
    rw [List.foldl_cons]
    by_cases hl : k ∈ l
    · exact ih _ hl
    · have hka : k = a := by simpa [hl] using hk
      subst hka
      clear ih hk
      have : ∀ q : Words 128, (l.foldl (fun q k => q.set (ix k) p[k]) q)[ix k] = q[ix k] := by
        induction l with
        | nil => intro q; rfl
        | cons b l ih =>
          intro q
          have hb : k ≠ b := fun h => hl (by simp [h])
          rw [List.foldl_cons, ih (fun h => hl (by simp [h])), words_set, if_neg (fun h => hb (hi h))]
      rw [this, words_set, if_pos rfl]

end Sys2Proof.Machine
end

