-- ==== Sys2Proof/Tests/Slice0.lean ====
section
/-! SUPPORT. The model's own tests. Expected values are the spec's: 95_test_vectors.md by the name of the vector, the
examples of the rules, or words written out from 30_encoding.md R81 and R85. After them, for each obligation with
hypotheses, concrete values that meet them. -/

namespace Sys2Proof.Tests

open Sys2Proof Sys2Proof.Machine

/-- Whether an outcome is a next state with property p. -/
def nextHas (o : Host.Outcome State Fault Refusal) (p : State → Bool) : Bool :=
  match o with
  | .next s => p s
  | .fault _ => false
  | .refused _ => false

/-- An idle block in ABSORB, digest length nn, T = t, with M[0] = m0. -/
def absorbing (nn : BitVec 7) (t m0 : Word) : State :=
  { State.reset with hstate := .absorb, nn := nn, t := t, h := hinit nn, m := (zeroWords 16).set 0 m0 }

/-- The reset state with an error recorded. -/
def errored : State := { State.reset with err := true, errcode := .eOpcode, irqPend := 2#2 }

/-- The reset state with a command running. -/
def running (w : Word) : State := { State.reset with busy := true, cur := w }

/-- The state with the host's next access given. -/
def facing (a : Input) (s : State) : State := { s with inputs := [a] }

/-! ### Well-formedness: ill-formed commands are refused, the ends of the ranges are not (R84) -/

theorem test_wf_initv_zero : (Instr.initv 0#8).wf = false := by decide
theorem test_wf_initv_sixtyfive : (Instr.initv 65#8).wf = false := by decide
theorem test_wf_last_over : (Instr.last 129#8).wf = false := by decide
theorem test_wf_ends : ((Instr.initv 1#8).wf && (Instr.initv 64#8).wf && (Instr.last 0#8).wf && (Instr.last 128#8).wf
    && Instr.init64.wf && Instr.block.wf && Instr.gcomp.wf && Instr.zeroize.wf && Instr.ack.wf) = true := by decide

/-! ### Decoding: words written out bit by bit, reserved (40 bits), LEN (8), NN (8), OP (8) (R81, R85) -/

theorem test_decode_init64 : decode (0#40 ++ 0b00000000#8 ++ 0b00000000#8 ++ 0b00000001#8) = .ok .init64 := by decide
theorem test_decode_initv : decode (0#40 ++ 0b00000000#8 ++ 0b00010100#8 ++ 0b00000010#8) = .ok (.initv 20#8) := by
  decide
theorem test_decode_block : decode (0#40 ++ 0b00000000#8 ++ 0b00000000#8 ++ 0b00000011#8) = .ok .block := by decide
theorem test_decode_last : decode (0#40 ++ 0b10000000#8 ++ 0b00000000#8 ++ 0b00000100#8) = .ok (.last 128#8) := by
  decide
theorem test_decode_gcomp : decode (0#40 ++ 0b00000000#8 ++ 0b00000000#8 ++ 0b00001000#8) = .ok .gcomp := by decide
theorem test_decode_zeroize : decode (0#40 ++ 0b00000000#8 ++ 0b00000000#8 ++ 0b00001110#8) = .ok .zeroize := by decide
theorem test_decode_ack : decode (0#40 ++ 0b00000000#8 ++ 0b00000000#8 ++ 0b00001111#8) = .ok .ack := by decide
/-- R86: 0x00 and 0x05 are no opcodes. -/
theorem test_decode_bad_opcode :
    decode 0x0000000000000000#64 = .error .badOpcode ∧ decode 0x0000000000000005#64 = .error .badOpcode := by decide
/-- B2-7 and C-1: reserved bits set. -/
theorem test_decode_reserved :
    decode 0x0000000000004001#64 = .error .reservedBits ∧ decode 0x0000000100000003#64 = .error .reservedBits
      ∧ decode 0x000000000000010E#64 = .error .reservedBits := by decide
theorem test_decode_table_word :
    decodeTableWord 64 0x2002 = some (.initv 32#8) ∧ decodeTableWord 64 0x4001 = none := by decide
/-- R88: the words of LAST 3 and INITV 20. -/
theorem test_encode : encode (.last 3#8) = 0x0000000000030004#64 ∧ encode (.initv 20#8) = 0x0000000000001402#64 := by
  decide

/-! ### Functions -/

/-- G-1, rows c, e and f. -/
theorem test_fbl : fbl 0xFFFFFFFF#64 0xFFFFFFFF#64 = 0xFFFFFFFE00000000#64
    ∧ fbl 0xFFFFFFFFFFFFFFFF#64 0xFFFFFFFFFFFFFFFF#64 = 0xFFFFFFFC00000000#64
    ∧ fbl 0x0000000100000000#64 0x0000000100000000#64 = 0x0000000200000000#64 := by decide

/-- G-2, second vector: GB(v, 0, 1, 2, 3) on 1, 2, 3, 4. -/
theorem test_gb : (gb (#v[1, 2, 3, 4, 0, 0, 0, 0, 0, 0, 0, 0, 0, 0, 0, 0] : Words 16) ⟨0, 1, 2, 3⟩).toList.take 4
    = [0x0000010000002D07#64, 0x5A0E02060E2A0606#64, 0x2D07000307150003#64, 0x2D07000001030000#64] := by
  decide +kernel

/-- G-3: P(0, 1, …, 15), words 0, 6 and 15. -/
theorem test_perm :
    let p := permP (Vector.ofFn fun i => BitVec.ofNat 64 i.val)
    p[0] = 0x3BCE1CCD56D0DB35#64 ∧ p[6] = 0x6B1B2CD05AD5461A#64 ∧ p[15] = 0x4C1B185E3A641FC4#64 := by
  decide +kernel

/-- B2-0. -/
theorem test_hinit : (hinit 20#7)[0] = 0x6A09E667F2BDC91C#64 ∧ (hinit 1#7)[0] = 0x6A09E667F2BDC909#64 := by decide

/-! ### One step of each command -/

/-- R110, example: INIT64 from reset. -/
theorem test_init64 : nextHas (step (State.reset.withFetchWord 64 0x01))
    (fun s => s.h[0] == 0x6A09E667F2BDC948#64 && s.statusWord == 0x0000000000400100#64 && s.irqPend == 1#2) = true := by
  decide +kernel

/-- R111, example: INITV 32; and B2-7: INITV 65 is E_NN. -/
theorem test_initv : nextHas (step (State.reset.withFetchWord 64 0x2002))
    (fun s => s.h[0] == 0x6A09E667F2BDC928#64 && s.statusWord == 0x0000000000200100#64) = true := by
  decide +kernel
theorem test_initv_e_nn : (State.reset.memWrite 0x008#12 8 0x4102#64).1.statusWord = 0x0000000000000032#64 := by decide

/-- B2-5: one full block of the bytes 0x00 to 0x7F. -/
theorem test_block : nextHas (step (({ absorbing 64#7 0#64 0#64 with
      m := Vector.ofFn fun i => 0x0706050403020100#64 + 0x0808080808080808#64 * BitVec.ofNat 64 i.val }).withFetchWord 64 0x03))
    (fun s => s.h[0] == 0xFFA0852A267EB85A#64 && s.h[7] == 0xE96B7E8825D0F5A7#64 && s.t == 0x80#64
      && s.statusWord == 0x0000000000400100#64) = true := by
  decide +kernel
/-- B2-8: BLOCK at T = 2^64 − 128 is E_COUNT. -/
theorem test_block_e_count :
    ((absorbing 64#7 0xFFFFFFFFFFFFFF80#64 0#64).memWrite 0x008#12 8 0x03#64).1.statusWord
      = 0x0000000000400162#64 := by decide

/-- B2-1: "abc" to 64 bytes. -/
theorem test_last : nextHas (step ((absorbing 64#7 0#64 0x636261#64).withFetchWord 64 0x030004))
    (fun s => s.dig 0 == 0x0D4D1C983FA580BA#64 && s.dig 7 == 0x239900D4ED8623B9#64 && s.t == 3#64
      && s.statusWord == 0x0000000000400200#64) = true := by
  decide +kernel
/-- B2-3: "abc" to 20 bytes, masked. -/
theorem test_last_masked : nextHas (step ((absorbing 20#7 0#64 0x636261#64).withFetchWord 64 0x030004))
    (fun s => s.dig 1 == 0xDC1C9284F2230584#64 && s.dig 2 == 0x000000006B84B668#64 && s.dig 3 == 0#64
      && s.h[7] == 0x7F08AE1D7ACF16B3#64) = true := by
  decide +kernel

/-- G-4: G(Zero, e0). -/
theorem test_gcomp : nextHas (step (({ State.reset with y := (zeroWords 128).set 0 1#64 }).withFetchWord 64 0x08))
    (fun s => s.r[0] == 0x13F722FF1CF4C6F4#64 && s.r[1] == 0x05CE51CF32DA98B2#64 && s.r[16] == 0x2DA52D34FC99A4FC#64
      && s.r[127] == 0x4B12EB4309E1BC7A#64 && s.y[0] == 1#64 && s.irqPend == 1#2) = true := by
  decide +kernel

/-- C-1: ZEROIZE. -/
theorem test_zeroize : nextHas (step (({ absorbing 64#7 3#64 0x636261#64 with
      x := (zeroWords 128).set 0 1#64, irqEn := 3#2 }).withFetchWord 64 0x0E))
    (fun s => s.statusWord == 0#64 && s.t == 0#64 && s.m[0] == 0#64 && s.x[0] == 0#64 && s.irqEn == 3#2
      && s.irqPend == 1#2) = true := by
  decide +kernel

/-- C-2, last row: ACK completes. -/
theorem test_ack : nextHas (step (errored.withFetchWord 64 0x0F)) (fun s => s.statusWord == 0#64 && s.irqPend == 3#2)
    = true := by
  decide +kernel
/-- C-2, second and third rows: BLOCK refused, a malformed ZEROIZE rejected, the first code kept. -/
theorem test_error_state : (errored.memWrite 0x008#12 8 0x03#64).2 = .busErr
    ∧ (errored.memWrite 0x008#12 8 0x010E#64).2 = .ok
    ∧ (errored.memWrite 0x008#12 8 0x010E#64).1.statusWord = 0x0000000000000012#64 := by decide

/-! ### The window -/

/-- C-3, from reset. -/
theorem test_bus_errors : State.reset.memRead 0x004#12 8 = (.busErr, 0#64) ∧ State.reset.memRead 0x000#12 4 = (.busErr, 0#64)
    ∧ State.reset.memRead 0x3F8#12 8 = (.busErr, 0#64) ∧ (State.reset.memWrite 0xC00#12 8 1#64).2 = .busErr
    ∧ State.reset.memRead 0x000#12 8 = (.ok, 0x00000013B2B00001#64) := by decide
/-- C-3, during a GCOMP. -/
theorem test_busy_accesses : (running 8#64).memRead 0x080#12 8 = (.busErr, 0#64)
    ∧ ((running 8#64).memWrite 0x400#12 8 1#64).2 = .busErr ∧ ((running 8#64).memWrite 0x008#12 8 0x0F#64).2 = .busErr
    ∧ (running 8#64).memRead 0x010#12 8 = (.ok, 1#64)
    ∧ ((running 8#64).memWrite 0x020#12 8 3#64).1.memRead 0x020#12 8 = (.ok, 3#64) := by decide
/-- P1: the line of WR 0x080 and its read back. -/
theorem test_write_message : (State.reset.memWrite 0x080#12 8 0x636261#64).1.memRead 0x080#12 8 = (.ok, 0x636261#64) := by
  decide
/-- R88: the steps of LAST 3 and of WAIT. -/
theorem test_host_lines : programInputs [.cmd (.last 3#8), .wait 0]
    = [.write 0x008#12 8 0x030004#64, .engine, .read 0x010#12 8] := by decide

/-! ### Witnesses: for each obligation with hypotheses, values that meet them, one for each clause -/

/-- A state of the invariant with a hash under way and a command running. -/
def hashing : State := { absorbing 64#7 128#64 0#64 with busy := true, cur := 0x0000000000000003#64 }

theorem hashing_inv : hashing.Inv :=
  ⟨by decide, by decide, by decide, by decide, by decide, by decide, by decide, by decide⟩

theorem errored_inv : errored.Inv :=
  ⟨by decide, by decide, by decide, by decide, by decide, by decide, by decide, by decide⟩

/-- An idle state of the invariant, no error recorded. -/
theorem absorbing_inv : (absorbing 1#7 0#64 0#64).Inv :=
  ⟨by decide, by decide, by decide, by decide, by decide, by decide, by decide, by decide⟩

theorem wit_DecodedWordIsItsEncoding : decode 0x0000000000004002#64 = .ok (.initv 64#8) := by decide

/-- One witness for each of the four clauses, and both sides of the disjunction of the last two. -/
theorem wit_CommandWriteFollowsIssueRule :
    (running 8#64).busy = true
    ∧ (errored.busy = false ∧ errored.err = true ∧ (0x03#64 : Word).extractLsb' 0 8 ≠ 0x0E#8
        ∧ (0x03#64 : Word).extractLsb' 0 8 ≠ 0x0F#8)
    ∧ (State.reset.busy = false ∧ State.reset.err = false ∧ checkWord 0x05#64 State.reset ≠ .eNone)
    ∧ (errored.busy = false ∧ (0x010F#64 : Word).extractLsb' 0 8 = 0x0F#8 ∧ checkWord 0x010F#64 errored ≠ .eNone)
    ∧ (State.reset.busy = false ∧ State.reset.err = false ∧ checkWord 0x4002#64 State.reset = .eNone)
    ∧ (errored.busy = false ∧ (0x0E#64 : Word).extractLsb' 0 8 = 0x0E#8 ∧ checkWord 0x0E#64 errored = .eNone) := by
  decide

theorem wit_CheckAndErrorEntryFollowRule :
    (checkWord 0x4102#64 State.reset = .eNn ∧ State.reset.busy = false ∧ State.reset.err = false)
    ∧ (checkWord 0x010F#64 errored = .eRsvd ∧ errored.busy = false ∧ (0x010F#64 : Word).extractLsb' 0 8 = 0x0F#8) := by
  decide

/-- A word for each fault of the priority order, alone or before a later one, and one with none; B2-7 and B2-8. -/
theorem wit_FaultPriorityFollowsRule :
    (State.reset.busy = false ∧ State.reset.err = false ∧ State.reset.hstate = .idle)
    ∧ decode 0x00#64 = .error .badOpcode
    ∧ decode 0x0000000100000003#64 = .error .reservedBits
    ∧ (decode 0x4102#64 = .ok (.initv 65#8) ∧ (Instr.initv 65#8).wf = false)
    ∧ (decode 0x02#64 = .ok (.initv 0#8) ∧ (Instr.initv 0#8).wf = false)
    ∧ (decode 0x810004#64 = .ok (.last 129#8) ∧ (Instr.last 129#8).wf = false)
    ∧ (decode 0x800004#64 = .ok (.last 128#8) ∧ (Instr.last 128#8).wf = true ∧ State.reset.hstate ≠ .absorb)
    ∧ (decode 0x04#64 = .ok (.last 0#8) ∧ (absorbing 64#7 128#64 0#64).t ≠ 0#64)
    ∧ (decode 0x03#64 = .ok .block ∧ (absorbing 64#7 0xFFFFFFFFFFFFFF80#64 0#64).hstate = .absorb
        ∧ 2 ^ 64 - 1 < (absorbing 64#7 0xFFFFFFFFFFFFFF80#64 0#64).t.toNat + 128)
    ∧ (decode 0x7F0004#64 = .ok (.last 127#8) ∧ (absorbing 64#7 0xFFFFFFFFFFFFFF80#64 0#64).busy = false
        ∧ (absorbing 64#7 0xFFFFFFFFFFFFFF80#64 0#64).err = false
        ∧ ¬2 ^ 64 - 1 < (absorbing 64#7 0xFFFFFFFFFFFFFF80#64 0#64).t.toNat + (127#8).toNat)
    ∧ (running 8#64).busy = true
    ∧ (errored.err = true ∧ (0x01#64 : Word).extractLsb' 0 8 ≠ 0x0E#8 ∧ (0x01#64 : Word).extractLsb' 0 8 ≠ 0x0F#8) := by
  decide

theorem wit_RecoveryCommandsAcceptedInErrorState : errored.busy = false ∧ errored.err = true := by decide

theorem wit_StepRunsLatchedCommand :
    (running 0x0E#64).busy = true ∧ (running 0x0E#64).engineNext = true ∧ decode (running 0x0E#64).cur = .ok .zeroize := by
  decide

theorem wit_PlacedWordRunsNext : decodeTableWord 64 0x800004 = some (.last 128#8) := by decide

theorem wit_StepPerformsHostAccess :
    (facing (.read 0xFF8#12 8) State.reset).inputs = .read 0xFF8#12 8 :: []
    ∧ (facing (.write 0xBF8#12 8 5#64) State.reset).inputs = .write 0xBF8#12 8 5#64 :: [] := ⟨rfl, rfl⟩

theorem wit_IdleEngineTurnChangesNothing :
    (State.reset.busy = false ∧ State.reset.engineNext = true)
    ∧ ((facing .engine errored).busy = false ∧ (facing .engine errored).engineNext = true) := by decide

theorem wit_ResetStepClearsEverything :
    (facing .reset hashing).inputs = .reset :: [] ∧ (facing .accessInReset hashing).inputs = .accessInReset :: [] :=
  ⟨rfl, rfl⟩

theorem wit_Init64StartsSixtyFourByteHash :
    (0x0101#64 : Word).extractLsb' 0 8 = 0x01#8 ∧ (0x0101#64 : Word).extractLsb' 8 56 ≠ 0#56 := by decide

theorem wit_InitvStartsVariableHash :
    ((0x012002#64 : Word).extractLsb' 0 8 = 0x02#8 ∧ (0x012002#64 : Word).extractLsb' 16 48 ≠ 0#48)
    ∧ (0#8).toNat = 0 ∧ 64 < (65#8).toNat ∧ 64 < (255#8).toNat
    ∧ (1 ≤ (1#8).toNat ∧ (1#8).toNat ≤ 64) ∧ (1 ≤ (64#8).toNat ∧ (64#8).toNat ≤ 64)
    ∧ (absorbing 1#7 0#64 0#64).nn = 1#7 := by decide

/-- T at its largest legal value, one more, and a state that is not ABSORB. -/
theorem wit_BlockCompressesFullBlock :
    ((0x8000000000000003#64 : Word).extractLsb' 0 8 = 0x03#8 ∧ (0x8000000000000003#64 : Word).extractLsb' 8 56 ≠ 0#56)
    ∧ State.reset.hstate ≠ .absorb
    ∧ ((absorbing 64#7 0xFFFFFFFFFFFFFF80#64 0#64).hstate = .absorb
        ∧ 2 ^ 64 - 1 - 128 < (absorbing 64#7 0xFFFFFFFFFFFFFF80#64 0#64).t.toNat)
    ∧ ((absorbing 64#7 0xFFFFFFFFFFFFFF7F#64 0#64).hstate = .absorb
        ∧ (absorbing 64#7 0xFFFFFFFFFFFFFF7F#64 0#64).t.toNat ≤ 2 ^ 64 - 1 - 128) := by decide

theorem wit_LastCompressesFinalBlock :
    ((0x0104#64 : Word).extractLsb' 0 8 = 0x04#8 ∧ (0x0104#64 : Word).extractLsb' 8 8 ≠ 0#8
      ∧ (0x01000004#64 : Word).extractLsb' 24 40 ≠ 0#40)
    ∧ 128 < (129#8).toNat
    ∧ ((128#8).toNat ≤ 128 ∧ State.reset.hstate ≠ .absorb)
    ∧ ((0#8).toNat ≤ 128 ∧ (absorbing 64#7 128#64 0#64).t ≠ 0#64)
    ∧ ((absorbing 64#7 0xFFFFFFFFFFFFFF80#64 0#64).hstate = .absorb
        ∧ 2 ^ 64 - 1 - (128#8).toNat < (absorbing 64#7 0xFFFFFFFFFFFFFF80#64 0#64).t.toNat
        ∧ (absorbing 64#7 0xFFFFFFFFFFFFFF80#64 0#64).t.toNat ≤ 2 ^ 64 - 1 - (127#8).toNat)
    ∧ ((absorbing 64#7 0#64 0#64).hstate = .absorb ∧ (0#8 = 0#8 → (absorbing 64#7 0#64 0#64).t = 0#64)) := by decide

theorem wit_GcompComputesBlockCompression :
    ((0x0108#64 : Word).extractLsb' 0 8 = 0x08#8 ∧ (0x0108#64 : Word).extractLsb' 8 56 ≠ 0#56)
    ∧ State.reset.x = State.reset.y := ⟨by decide, rfl⟩

theorem wit_ZeroizeClearsAllData :
    (errored.busy = false ∧ (0x010E#64 : Word).extractLsb' 0 8 = 0x0E#8 ∧ (0x010E#64 : Word).extractLsb' 8 56 ≠ 0#56)
    ∧ ((absorbing 64#7 3#64 0#64).err = false ∧ (absorbing 64#7 3#64 0#64).errcode = .eNone) := by decide

theorem wit_AckLeavesErrorState :
    (errored.busy = false ∧ errored.err = true ∧ (0x010F#64 : Word).extractLsb' 0 8 = 0x0F#8
      ∧ (0x010F#64 : Word).extractLsb' 8 56 ≠ 0#56)
    ∧ (absorbing 1#7 0#64 0#64).Inv ∧ (absorbing 1#7 0#64 0#64).err = false
    ∧ ∃ t, exec .ack (absorbing 1#7 0#64 0#64) = .next t := ⟨by decide, absorbing_inv, rfl, _, rfl⟩

theorem wit_EmptyMessageCompressesZeroBlock :
    (1 ≤ (1#8).toNat ∧ (1#8).toNat ≤ 64) ∧ (1 ≤ (64#8).toNat ∧ (64#8).toNat ≤ 64) := by decide

theorem wit_RejectedCommandHasNoEffect :
    checkInstr .block State.reset ≠ .eNone ∧ checkInstr (.last 0#8) errored ≠ .eNone
      ∧ checkInstr (.initv 65#8) State.reset ≠ .eNone := by decide

/-- The two messages differ in byte 3, the first that LAST 3 ignores. -/
theorem wit_LastIgnoresBytesFromLenOn :
    (∀ (i : Fin 16) (k : Fin 8), 8 * i.val + k.val < (3#8).toNat →
      byteOf ((zeroWords 16).set 0 0xFF636261#64)[i] k.val = byteOf (absorbing 64#7 0#64 0x636261#64).m[i] k.val)
    ∧ (∃ t, exec (.last 3#8) (absorbing 64#7 0#64 0x636261#64) = .next t)
    ∧ ∃ t, exec (.last 3#8) { absorbing 64#7 0#64 0x636261#64 with m := (zeroWords 16).set 0 0xFF636261#64 } = .next t :=
  ⟨by decide, ⟨_, exec_of_check (by decide)⟩, ⟨_, exec_of_check (by decide)⟩⟩

theorem wit_HashCommandsLeaveBuffersUnchanged :
    (Instr.block ≠ .gcomp ∧ Instr.block ≠ .zeroize ∧ ∃ t, exec .block (absorbing 64#7 0#64 5#64) = .next t)
    ∧ (Instr.ack ≠ .gcomp ∧ Instr.ack ≠ .zeroize ∧ Instr.ack ≠ .block ∧ (∀ len, Instr.ack ≠ .last len)
        ∧ ∃ t, exec .ack errored = .next t)
    ∧ (0x080 ≤ (0x080#12).toNat ∧ (0x0FF#12).toNat < 0x100 ∧ 0x400 ≤ (0x400#12).toNat ∧ 0x400 ≤ (0xFFF#12).toNat) :=
  ⟨⟨by decide, by decide, _, exec_of_check (by decide)⟩, ⟨by decide, by decide, by decide, (fun _ h => by cases h), _, exec_of_check rfl⟩,
    by decide⟩

theorem wit_GcompStoresOnlyResultBytes :
    (∃ t, exec .gcomp hashing = .next t) ∧ 0x080 ≤ (0x080#12).toNat ∧ (0xBFF#12).toNat < 0xC00 :=
  ⟨⟨_, exec_of_check rfl⟩, by decide⟩

theorem wit_ZeroizedWindowReadsZero :
    (∃ t, exec .zeroize hashing = .next t) ∧ 0x080 ≤ (0x080#12).toNat ∧ 0x080 ≤ (0xFFF#12).toNat :=
  ⟨⟨_, exec_of_check rfl⟩, by decide⟩

theorem wit_MixUpdatesItsFourWords : [(0 : Fin 16), 5, 10, 15].Nodup ∧ (1 : Fin 16) ∉ [(0 : Fin 16), 5, 10, 15] := by decide

theorem wit_QuarterRoundUpdatesItsFourWords : [(3 : Fin 16), 4, 9, 14].Nodup ∧ (0 : Fin 16) ∉ [(3 : Fin 16), 4, 9, 14] := by
  decide

theorem wit_InitialChainingValueFollowsRule : (7 : Fin 8) ≠ 0 ∧ (1#7 : BitVec 7) ≠ 64#7 := by decide

theorem wit_PaddingZeroesBytesFromLenOn :
    (0 ≤ 128 ∧ 128 ≤ 128)
    ∧ ∀ (i : Fin 16) (k : Fin 8), 8 * i.val + k.val < 127 →
        byteOf ((zeroWords 16).set 15 0xFF00000000000000#64)[i] k.val = byteOf (zeroWords 16)[i] k.val := by decide

theorem wit_DigestRegistersFollowRule :
    ({ absorbing 64#7 3#64 0#64 with hstate := .final } : State).hstate = .final
    ∧ ({ absorbing 64#7 3#64 0#64 with hstate := .final } : State).nn.toNat ≤ 64
    ∧ 8 * (7 : Fin 8).val + (7 : Fin 8).val < ({ absorbing 64#7 3#64 0#64 with hstate := .final } : State).nn.toNat := by
  decide

theorem wit_RotationMovesBits : (1 ≤ 1 ∧ 1 ≤ 63 ∧ 63 < 64) ∧ (1 ≤ 63 ∧ 63 ≤ 63 ∧ 0 < 64) := by decide

theorem wit_BlockPermutationFollowsRule :
    Function.Injective (rowIndex 7) ∧ Function.Injective (colIndex 7) ∧ (∀ k, rowIndex 7 k ≠ 0)
    ∧ [(7 : Fin 8), 6, 5, 4, 3, 2, 1, 0].Perm (List.finRange 8) := by
  refine ⟨?_, ?_, ?_, ?_⟩ <;> decide

theorem wit_BlockCompressionLaws (x y : Words 128) : ∀ i : Fin 128, x[i] ^^^ y[i] = y[i] ^^^ x[i] :=
  fun _ => BitVec.xor_comm _ _

theorem wit_ByteSerialisationIsLittleEndian :
    ([1#8, 2#8, 3#8, 4#8, 5#8, 6#8, 7#8, 8#8] : List Byte).length = 8 * 1 := rfl

/-- The ends of the two reserved ranges, the first and last buffer words while a command runs, a read step. -/
theorem wit_ReadsFollowRule :
    ((0x030#12).toNat % 8 = 0 ∧ 0x030 ≤ (0x030#12).toNat ∧ (0x078#12).toNat % 8 = 0 ∧ (0x078#12).toNat < 0x080)
    ∧ ((0x140#12).toNat % 8 = 0 ∧ 0x140 ≤ (0x140#12).toNat ∧ (0x3F8#12).toNat % 8 = 0 ∧ (0x3F8#12).toNat < 0x400)
    ∧ ((running 8#64).busy = true ∧ (0xFF8#12).toNat % 8 = 0 ∧ 0x080 ≤ (0x080#12).toNat)
    ∧ State.reset.busy = false
    ∧ ∃ t, step (facing (.read 0x080#12 8) hashing) = .next t :=
  ⟨by decide, by decide, by decide, rfl, _, rfl⟩

theorem wit_WritesFollowRule :
    ((0x078#12).toNat % 8 = 0 ∧ (0x078#12).toNat < 0x080 ∧ 0x030 ≤ (0x030#12).toNat)
    ∧ ((0x100#12).toNat % 8 = 0 ∧ 0x100 ≤ (0x100#12).toNat ∧ (0x3F8#12).toNat < 0x400)
    ∧ ((0xC00#12).toNat % 8 = 0 ∧ 0xC00 ≤ (0xC00#12).toNat)
    ∧ ((running 8#64).busy = true ∧ (0xFF8#12).toNat % 8 = 0)
    ∧ State.reset.busy = false := by decide

theorem wit_WrittenBufferWordReadsBack :
    (State.reset.memWrite 0x080#12 8 5#64).2 = .ok ∧ (State.reset.memWrite 0xBF8#12 8 5#64).2 = .ok
      ∧ 0x080 ≤ (0x080#12).toNat ∧ (0x088#12 : BitVec 12) ≠ 0x080#12 := by decide

theorem wit_RefusedAccessChangesNothing :
    ((facing (.read 0x140#12 8) State.reset).inputs = .read 0x140#12 8 :: []
      ∧ ((facing (.read 0x140#12 8) State.reset).memRead 0x140#12 8).1 = .busErr)
    ∧ ((facing (.write 0x080#12 4 5#64) State.reset).inputs = .write 0x080#12 4 5#64 :: []
      ∧ ((facing (.write 0x080#12 4 5#64) State.reset).memWrite 0x080#12 4 5#64).2 = .busErr) := by decide

theorem wit_HostCannotTouchRunningCommand :
    hashing.busy = true ∧ (Input.write 0x080#12 8 5#64).isHost = true ∧ (Input.read 0x100#12 8).isHost = true
    ∧ (∃ t, step (facing (.write 0x080#12 8 5#64) hashing) = .next t)
    ∧ ∃ t, step (facing (.read 0x100#12 8) hashing) = .next t :=
  ⟨rfl, rfl, rfl, ⟨_, rfl⟩, ⟨_, rfl⟩⟩

/-- A change of HSTATE by each of its causes. -/
theorem wit_HashStateTransitionsFollowRule :
    (∃ t, step (facing .reset hashing) = .next t ∧ t.hstate ≠ hashing.hstate)
    ∧ (∃ t, step (running 0x01#64) = .next t ∧ t.hstate ≠ (running 0x01#64).hstate)
    ∧ (∃ t, step (running 0x4002#64) = .next t ∧ t.hstate ≠ (running 0x4002#64).hstate)
    ∧ (∃ t, step { hashing with cur := 0x800004#64 } = .next t ∧ t.hstate ≠ hashing.hstate)
    ∧ ∃ t, step { hashing with cur := 0x0E#64 } = .next t ∧ t.hstate ≠ hashing.hstate :=
  ⟨⟨_, rfl, by decide⟩, ⟨_, exec_of_check (i := .init64) rfl, by decide⟩,
    ⟨_, exec_of_check (i := .initv 64#8) (by decide), by decide⟩,
    ⟨_, (step_of_engineNext rfl).trans (engineTurn_of_check (i := .last 128#8) rfl (by decide) (by decide)), by decide⟩,
    ⟨_, exec_of_check (i := .zeroize) rfl, by decide⟩⟩

theorem wit_ErrorStaysUntilAckOrReset :
    (errored.err = true ∧ ∃ t, step errored = .next t)
    ∧ (∃ t, step (facing .reset errored) = .next t)
    ∧ ∃ t, step { errored with busy := true, cur := 0x0F#64 } = .next t :=
  ⟨⟨rfl, _, rfl⟩, ⟨_, rfl⟩, ⟨_, exec_of_check (i := .ack) rfl⟩⟩

theorem wit_PendingBitsClearedOnlyByHostOrReset :
    (∃ t, step (facing .reset errored) = .next t ∧ errored.irqPend.getLsbD 1 = true ∧ t.irqPend.getLsbD 1 = false)
    ∧ ∃ t, step (facing (.write 0x028#12 8 3#64) errored) = .next t ∧ errored.irqPend.getLsbD 1 = true
        ∧ t.irqPend.getLsbD 1 = false :=
  ⟨⟨_, rfl, by decide, by decide⟩, ⟨_, rfl, by decide, by decide⟩⟩

theorem wit_CompletionAndErrorSetPendingBits :
    checkInstr .gcomp State.reset = .eNone ∧ ∃ t, exec .gcomp State.reset = .next t := ⟨rfl, _, exec_of_check rfl⟩

/-- A rejection, a completion, and a completion after DONE was cleared. -/
theorem wit_CompletionAndRejectionNeverRace :
    ((State.reset.memWrite 0x008#12 8 0#64).1.err = true ∧ State.reset.err = false)
    ∧ (∃ t, engineTurn (running 0x01#64) = .next t ∧ t ≠ running 0x01#64)
    ∧ hashing.Inv ∧ hashing.busy = true ∧ ∃ t, engineTurn (hashing.memWrite 0x028#12 8 1#64).1 = .next t :=
  ⟨by decide,
    ⟨_, exec_of_check (i := .init64) rfl, fun h => absurd (congrArg State.busy h) (by decide)⟩,
    hashing_inv, rfl, ⟨_, engineTurn_of_check (i := .block) rfl (by decide) (by decide)⟩⟩

theorem wit_ByteCounterNeverWraps :
    (∃ t, step { hashing with cur := 0x01#64 } = .next t ∧ t.t.toNat < hashing.t.toNat)
    ∧ (∃ t, step (facing .reset hashing) = .next t ∧ t.t.toNat < hashing.t.toNat)
    ∧ (checkInstr .block hashing = .eNone ∧ ∃ t, exec .block hashing = .next t)
    ∧ checkInstr (.last 128#8) hashing = .eNone ∧ ∃ t, exec (.last 128#8) hashing = .next t :=
  ⟨⟨_, exec_of_check (i := .init64) rfl, by decide⟩, ⟨_, rfl, by decide⟩,
    ⟨by decide, _, exec_of_check (by decide)⟩, by decide, _, exec_of_check (by decide)⟩

theorem wit_AcceptedCommandCompletes : hashing.Inv ∧ hashing.busy = true ∧ hashing.engineNext = true :=
  ⟨hashing_inv, rfl, rfl⟩

theorem wit_IssueThenTurnIsExec :
    (State.reset.busy = false ∧ State.reset.cur = 0#64 ∧ State.reset.err = false
      ∧ checkInstr .init64 State.reset = .eNone ∧ checkInstr .block State.reset ≠ .eNone)
    ∧ errored.busy = false ∧ errored.cur = 0#64 ∧ errored.err = true ∧ checkInstr .ack errored = .eNone := by decide

theorem wit_HiddenStateIsUnobservable :
    sameButHidden hashing { hashing with work := Config.freeWork 7, freeCount := 8 } := rfl

theorem wit_StepStopsOnlyOnAccessInReset : hashing.inputs.head? ≠ some .accessInReset := by decide

theorem wit_EveryStepKeepsInvariant : hashing.Inv ∧ ∃ t, step hashing = .next t :=
  ⟨hashing_inv, _, (step_of_engineNext rfl).trans (engineTurn_of_check (i := .block) rfl (by decide) (by decide))⟩

end Sys2Proof.Tests
end

section
/-! SUPPORT. Byte strings as numbers and as words (00_scope.md R10). -/

namespace Sys2Proof.Machine

/-- A byte put below a bit string, as a number. -/
theorem toNat_append_byte {n : Nat} (x : BitVec n) (b : Byte) : (x ++ b).toNat = 256 * x.toNat + b.toNat := by
  rw [BitVec.toNat_append, ← Nat.shiftLeft_add_eq_or_of_lt b.isLt, Nat.shiftLeft_eq, Nat.mul_comm]

/-- LE64 as a number: its bytes weighted by powers of 256, by Horner's scheme from the highest byte. -/
theorem toNat_le64 (b : Vector Byte 8) : (le64 b).toNat =
    b[0].toNat + 256 * b[1].toNat + 256 ^ 2 * b[2].toNat + 256 ^ 3 * b[3].toNat + 256 ^ 4 * b[4].toNat
      + 256 ^ 5 * b[5].toNat + 256 ^ 6 * b[6].toNat + 256 ^ 7 * b[7].toNat := by
  simp only [le64, toNat_append_byte]
  ring

/-- Word i of `words(B)` is LE64 of bytes 8i to 8i + 7. -/
theorem wordsOf_getElem (n : Nat) (l : List Byte) (i : Fin n) :
    (wordsOf n l)[i] = le64 (Vector.ofFn fun k => l.getD (8 * i.val + k.val) 0#8) := by
  simp [wordsOf]

/-- Byte k of word i of `words(B)` is byte 8i + k of B. -/
theorem byteOf_wordsOf (n : Nat) (l : List Byte) (i : Fin n) (k : Fin 8) :
    byteOf (wordsOf n l)[i] k.val = l.getD (8 * i.val + k.val) 0#8 := by
  rw [wordsOf_getElem, byteOf_le64]
  simp

/-- Arrays of words with the same bytes are the same. -/
theorem words_eq_of_bytes {n : Nat} {w w' : Words n}
    (h : ∀ (i : Fin n) (k : Fin 8), byteOf w[i] k.val = byteOf w'[i] k.val) : w = w' :=
  Vector.ext fun i hi => word_eq_of_bytes (h ⟨i, hi⟩)

theorem wordsOf_bytesOf {n : Nat} (w : Words n) : wordsOf n (bytesOf w) = w :=
  words_eq_of_bytes fun i k => by rw [byteOf_wordsOf, bytesOf_getD]

/-- Byte j of a string of 8n bytes is byte j mod 8 of word j / 8. -/
theorem bytesOf_wordsOf {n : Nat} {l : List Byte} (hl : l.length = 8 * n) : bytesOf (wordsOf n l) = l := by
  refine List.ext_getElem (by rw [length_bytesOf, hl]) fun j hj hj' => ?_
  have hi : j / 8 < n := by omega
  have hk : j % 8 < 8 := Nat.mod_lt j (by decide)
  have hbyte : (bytesOf (wordsOf n l)).getD (8 * (j / 8) + j % 8) 0#8 = l.getD (8 * (j / 8) + j % 8) 0#8 :=
    (bytesOf_getD _ ⟨j / 8, hi⟩ ⟨j % 8, hk⟩).trans (byteOf_wordsOf n l ⟨j / 8, hi⟩ ⟨j % 8, hk⟩)
  rwa [Nat.div_add_mod, List.getD_eq_getElem _ _ hj, List.getD_eq_getElem _ _ hj'] at hbyte

/-- The number written by LE32 is the sum of its bytes weighted by powers of 256. -/
theorem le32_weighted_sum (x : BitVec 32) : ((le32 x).getD 0 0#8).toNat + 256 * ((le32 x).getD 1 0#8).toNat
    + 256 ^ 2 * ((le32 x).getD 2 0#8).toNat + 256 ^ 3 * ((le32 x).getD 3 0#8).toNat = x.toNat := by
  have hx : x.toNat < 2 ^ 32 := x.isLt
  simp only [le32, List.getD_cons_zero, List.getD_cons_succ, BitVec.extractLsb'_toNat, Nat.shiftRight_eq_div_pow]
  omega

/-- Settles O38: LE64 by Horner's scheme, the two conversions by comparing byte 8i + k on both sides. -/
theorem byteSerialisationIsLittleEndian : Obligations.ByteSerialisationIsLittleEndian :=
  ⟨toNat_le64, fun _ => wordsOf_bytesOf, fun _ _ => bytesOf_wordsOf, fun n l i _ => wordsOf_getElem n l i,
    fun x => ⟨rfl, le32_weighted_sum x⟩⟩

end Sys2Proof.Machine
end

section
/-! SUPPORT. The registers of 10_state.md as the host sees them: STATUS and its fields, IRQ_EN and IRQ_PEND, the digest
registers and the digest as a byte string. -/

namespace Sys2Proof.Machine

/-! ### An access that the port accepts (20_memory.md R55 to R57) -/

section
variable {s : State} {off : BitVec 12} {n : Nat} (h : accessFormOk off n = true)
include h

theorem memRead_of_accessFormOk : s.memRead off n = s.readReg (regAt off) := if_pos h

theorem memWrite_of_accessFormOk (v : Word) : s.memWrite off n v = s.writeReg (regAt off) v := if_pos h

end

section
variable (s : State) (v : Word)

@[simp] theorem memRead_offStatus : s.memRead 0x010#12 8 = (.ok, s.statusWord) := memRead_of_accessFormOk rfl

@[simp] theorem memWrite_offStatus : s.memWrite 0x010#12 8 v = (s, .busErr) := memWrite_of_accessFormOk rfl v

@[simp] theorem memRead_offIrqEn : s.memRead 0x020#12 8 = (.ok, s.irqEn.setWidth 64) := memRead_of_accessFormOk rfl

@[simp] theorem memWrite_offIrqEn : s.memWrite 0x020#12 8 v = ({ s with irqEn := v.extractLsb' 0 2 }, .ok) :=
  memWrite_of_accessFormOk rfl v

@[simp] theorem memRead_offIrqPend : s.memRead 0x028#12 8 = (.ok, s.irqPend.setWidth 64) :=
  memRead_of_accessFormOk rfl

@[simp] theorem memWrite_offIrqPend :
    s.memWrite 0x028#12 8 v = ({ s with irqPend := clearPend s.irqPend v }, .ok) :=
  memWrite_of_accessFormOk rfl v

@[simp] theorem memRead_offDig (i : Fin 8) :
    s.memRead (offDig i) 8 = if s.busy = true then (.busErr, 0#64) else (.ok, s.dig i) := by
  rw [memRead_of_accessFormOk (accessFormOk_offDig i), regAt_offDig]
  rfl

@[simp] theorem memWrite_offDig (i : Fin 8) : s.memWrite (offDig i) 8 v = (s, .busErr) := by
  rw [memWrite_of_accessFormOk (accessFormOk_offDig i), regAt_offDig]
  rfl

end

/-! ### STATUS (R26) -/

section
variable (s : State)

/-- Bit 0 is BUSY and bit 1 is ERR, the two single bits that `statusWord` appends last. -/
theorem statusWord_flags : s.statusWord.getLsbD 0 = s.busy ∧ s.statusWord.getLsbD 1 = s.err := by
  simp [State.statusWord, BitVec.getElem_append (m := 1)]

/-- The fields above bit 1, from the lowest: each stands above the ones named before it. -/
theorem statusWord_fields :
    s.statusWord.extractLsb' 2 2 = 0#2 ∧ s.statusWord.extractLsb' 4 4 = s.errcode.bits
    ∧ s.statusWord.extractLsb' 8 2 = s.hstate.bits ∧ s.statusWord.extractLsb' 10 6 = 0#6
    ∧ s.statusWord.extractLsb' 16 7 = s.nn ∧ s.statusWord.extractLsb' 23 41 = 0#41 := by
  simp only [State.statusWord, BitVec.extractLsb'_append_eq_of_le (w := 1),
    BitVec.extractLsb'_append_eq_of_le (w := 2), BitVec.extractLsb'_append_eq_of_le (w := 4),
    BitVec.extractLsb'_append_eq_of_le (w := 6), Nat.reduceLeDiff, Nat.reduceSub]
  exact ⟨BitVec.extractLsb'_append_eq_right, BitVec.extractLsb'_append_eq_right, BitVec.extractLsb'_append_eq_right,
    BitVec.extractLsb'_append_eq_right, BitVec.extractLsb'_append_eq_right, BitVec.extractLsb'_append_eq_left⟩

end

/-- Settles O39: the bit order of `statusWord`, which the port answers in every state and lets no write change. -/
theorem statusRegisterFieldsFollowRule : Obligations.StatusRegisterFieldsFollowRule := by
  intro s
  obtain ⟨hbusy, herr⟩ := statusWord_flags s
  obtain ⟨hzero, herrcode, hhstate, hzeros, hnn, hhigh⟩ := statusWord_fields s
  exact ⟨memRead_offStatus s, hbusy, herr, hzero, herrcode, hhstate, hzeros, hnn, hhigh,
    memWrite_offStatus s⟩

/-! ### IRQ_EN and IRQ_PEND (R37, R38) -/

/-- A write to IRQ_PEND keeps a pending bit exactly where the written bit is 0. -/
theorem getLsbD_clearPend (p : BitVec 2) (v : Word) {i : Nat} (hi : i < 2) :
    (clearPend p v).getLsbD i = (p.getLsbD i && !v.getLsbD i) := by
  simp [clearPend, hi]

/-- Settles O40: neither register looks at BUSY, and `clearPend` is the value that a write leaves in IRQ_PEND. -/
theorem interruptRegistersFollowRules : Obligations.InterruptRegistersFollowRules := fun s v =>
  ⟨memRead_offIrqEn s, memRead_offIrqPend s, memWrite_offIrqEn s v,
    clearPend s.irqPend v, memWrite_offIrqPend s v, fun _ => getLsbD_clearPend s.irqPend v⟩

/-! ### The digest registers and the digest (R33, 40_blake2b.md R106) -/

@[simp] theorem byteOf_zero (k : Nat) : byteOf 0#64 k = 0#8 := BitVec.extractLsb'_zero

/-- The digest registers show the first NN bytes of H, and those only once the hash is final. -/
theorem byteOf_dig (s : State) (i k : Fin 8) : byteOf (s.dig i) k.val =
    if s.hstate = .final ∧ 8 * i.val + k.val < s.nn.toNat then byteOf s.h[i] k.val else 0#8 := by
  unfold State.dig
  cases s.hstate with
  | final => simp
  | idle => simp
  | absorb => simp

/-- Byte j of `bytes(W)` is byte j mod 8 of word j / 8. -/
theorem getElem_bytesOf {n : Nat} (ws : Words n) {j : Nat} (hj : j < (bytesOf ws).length) (hi : j / 8 < n) :
    (bytesOf ws)[j] = byteOf ws[j / 8] (j % 8) := by
  have hbyte := bytesOf_getD ws ⟨j / 8, hi⟩ ⟨j % 8, Nat.mod_lt j (by decide)⟩
  rwa [Nat.div_add_mod, List.getD_eq_getElem _ _ hj] at hbyte

/-- The first `len` bytes of two arrays agree when the bytes at each index below `len` do. -/
theorem take_bytesOf_congr {n : Nat} {ws ws' : Words n} {len : Nat}
    (h : ∀ (i : Fin n) (k : Fin 8), 8 * i.val + k.val < len → byteOf ws[i] k.val = byteOf ws'[i] k.val) :
    (bytesOf ws).take len = (bytesOf ws').take len := by
  refine List.ext_getElem (by simp) fun j hj hj' => ?_
  have hlen : j < len ∧ j < 8 * n := by simpa using hj
  have hi : j / 8 < n := by omega
  rw [List.getElem_take, List.getElem_take, getElem_bytesOf ws _ hi, getElem_bytesOf ws' _ hi]
  exact h ⟨j / 8, hi⟩ ⟨j % 8, Nat.mod_lt j (by decide)⟩ (by simpa only [Nat.div_add_mod] using hlen.1)

/-- In FINAL the mask that the registers put on the bytes from NN on does not reach the digest. -/
theorem digest_of_final {s : State} (hf : s.hstate = .final) : s.digest = (bytesOf s.h).take s.nn.toNat :=
  take_bytesOf_congr fun i k hk => by
    have hdig := byteOf_dig s i k
    rw [if_pos ⟨hf, hk⟩] at hdig
    simpa using hdig

theorem length_digest {s : State} (hnn : s.nn.toNat ≤ 64) : s.digest.length = s.nn.toNat := by
  simpa [State.digest] using hnn

/-- Below NN, byte 8i + k of the digest is byte k of H[i]. -/
theorem digest_getD {s : State} (hf : s.hstate = .final) {i k : Fin 8} (hk : 8 * i.val + k.val < s.nn.toNat) :
    s.digest.getD (8 * i.val + k.val) 0#8 = byteOf s.h[i] k.val := by
  rw [← bytesOf_getD s.h i k, digest_of_final hf, List.getD_eq_getElem?_getD, List.getD_eq_getElem?_getD,
    List.getElem?_take_of_lt hk]

/-- Settles O33: DIG by the three hash states, and the digest by comparing the bytes of DIG and H below NN. -/
theorem digestRegistersFollowRule : Obligations.DigestRegistersFollowRule :=
  ⟨byteOf_dig, memRead_offDig, fun s i v => memWrite_offDig s v i,
    fun _ hf hnn => ⟨digest_of_final hf, length_digest hnn, fun _ _ => digest_getD hf⟩⟩

end Sys2Proof.Machine
end

section
/-! SUPPORT. What an access to each offset of the register map does (20_memory.md R54 to R59): the registers below
0x080, the words of the buffers, and the offsets where the port refuses. -/

namespace Sys2Proof.Machine

/-! ### The registers below 0x080 that earlier lemmas leave out -/

section
variable (s : State) (v : Word)

@[simp] theorem memRead_offId : s.memRead 0x000#12 8 = (.ok, Config.idValue) := memRead_of_accessFormOk rfl

@[simp] theorem memWrite_offId : s.memWrite 0x000#12 8 v = (s, .busErr) := memWrite_of_accessFormOk rfl v

@[simp] theorem memRead_offCmd : s.memRead 0x008#12 8 = (.ok, 0#64) := memRead_of_accessFormOk rfl

@[simp] theorem memWrite_offCmd : s.memWrite 0x008#12 8 v = s.issueCommand v := memWrite_of_accessFormOk rfl v

@[simp] theorem memRead_offCount : s.memRead 0x018#12 8 = (.ok, s.t) := memRead_of_accessFormOk rfl

@[simp] theorem memWrite_offCount : s.memWrite 0x018#12 8 v = (s, .busErr) := memWrite_of_accessFormOk rfl v

end

/-! ### The words of the buffers -/

@[simp] theorem toNat_offM (i : Fin 16) : (offM i).toNat = 0x080 + 8 * i.val := Nat.mod_eq_of_lt (by omega)

@[simp] theorem toNat_offX (i : Fin 128) : (offX i).toNat = 0x400 + 8 * i.val := Nat.mod_eq_of_lt (by omega)

@[simp] theorem toNat_offY (i : Fin 128) : (offY i).toNat = 0x800 + 8 * i.val := Nat.mod_eq_of_lt (by omega)

section
variable (s : State) (v : Word)

@[simp] theorem memRead_offM (i : Fin 16) :
    s.memRead (offM i) 8 = if s.busy = true then (.busErr, 0#64) else (.ok, s.m[i]) := by
  rw [memRead_of_accessFormOk (accessFormOk_offM i), regAt_offM]
  rfl

@[simp] theorem memRead_offX (i : Fin 128) :
    s.memRead (offX i) 8 = if s.busy = true then (.busErr, 0#64) else (.ok, s.x[i]) := by
  rw [memRead_of_accessFormOk (accessFormOk_offX i), regAt_offX]
  rfl

@[simp] theorem memRead_offY (i : Fin 128) :
    s.memRead (offY i) 8 = if s.busy = true then (.busErr, 0#64) else (.ok, s.y[i]) := by
  rw [memRead_of_accessFormOk (accessFormOk_offY i), regAt_offY]
  rfl

@[simp] theorem memRead_offR (i : Fin 128) :
    s.memRead (offR i) 8 = if s.busy = true then (.busErr, 0#64) else (.ok, s.r[i]) := by
  rw [memRead_of_accessFormOk (accessFormOk_offR i), regAt_offR]
  rfl

@[simp] theorem memWrite_offM (i : Fin 16) : s.memWrite (offM i) 8 v =
    if s.busy = true then (s, .busErr) else ({ s with m := s.m.set i v }, .ok) := by
  rw [memWrite_of_accessFormOk (accessFormOk_offM i), regAt_offM]
  rfl

@[simp] theorem memWrite_offX (i : Fin 128) : s.memWrite (offX i) 8 v =
    if s.busy = true then (s, .busErr) else ({ s with x := s.x.set i v }, .ok) := by
  rw [memWrite_of_accessFormOk (accessFormOk_offX i), regAt_offX]
  rfl

@[simp] theorem memWrite_offY (i : Fin 128) : s.memWrite (offY i) 8 v =
    if s.busy = true then (s, .busErr) else ({ s with y := s.y.set i v }, .ok) := by
  rw [memWrite_of_accessFormOk (accessFormOk_offY i), regAt_offY]
  rfl

end

/-! ### The offsets where the port refuses (R58, R59) -/

section
variable {s : State} {off : BitVec 12}

/-- What the register refuses to read is refused whatever the form of the access. -/
theorem memRead_of_readReg_busErr (h : s.readReg (regAt off) = (.busErr, 0#64)) (n : Nat) :
    s.memRead off n = (.busErr, 0#64) := by
  rw [State.memRead, h, ite_self]

theorem regAt_of_reserved
    (h : (0x030 ≤ off.toNat ∧ off.toNat < 0x080) ∨ (0x140 ≤ off.toNat ∧ off.toNat < 0x400)) :
    regAt off = .reserved := by
  rcases regAt_ranges off with ⟨hlt, -⟩ | ⟨-, hlt, -⟩ | ⟨-, hlt, -⟩ | ⟨-, hlt, -⟩ | ⟨-, hlt, -⟩ | ⟨-, hlt, -⟩
    | ⟨-, -, hreg⟩ | ⟨i, hi, -⟩ | ⟨i, hi, -⟩ | ⟨-, -, hreg⟩ | ⟨i, hi, -⟩ | ⟨i, hi, -⟩ | ⟨i, hi, -⟩
  iterate 6 omega
  · exact hreg
  iterate 2 omega
  · exact hreg
  iterate 3 omega

/-- From 0x080 on stand the five buffers, with reserved offsets between them. -/
theorem regAt_of_ge (h : 0x080 ≤ off.toNat) :
    regAt off = .reserved ∨ (∃ i, regAt off = .m i) ∨ (∃ i, regAt off = .dig i) ∨ (∃ i, regAt off = .x i)
    ∨ (∃ i, regAt off = .y i) ∨ ∃ i, regAt off = .r i := by
  rcases regAt_ranges off with ⟨hlt, -⟩ | ⟨-, hlt, -⟩ | ⟨-, hlt, -⟩ | ⟨-, hlt, -⟩ | ⟨-, hlt, -⟩ | ⟨-, hlt, -⟩
    | ⟨-, hlt, -⟩ | ⟨i, -, hreg⟩ | ⟨i, -, hreg⟩ | ⟨-, -, hreg⟩ | ⟨i, -, hreg⟩ | ⟨i, -, hreg⟩ | ⟨i, -, hreg⟩
  iterate 7 omega
  all_goals simp [hreg]

theorem memRead_of_reserved
    (h : (0x030 ≤ off.toNat ∧ off.toNat < 0x080) ∨ (0x140 ≤ off.toNat ∧ off.toNat < 0x400)) (n : Nat) :
    s.memRead off n = (.busErr, 0#64) :=
  memRead_of_readReg_busErr (by rw [regAt_of_reserved h]; rfl) n

/-- While a command runs no buffer can be read (R59). -/
theorem memRead_of_busy (hoff : 0x080 ≤ off.toNat) (hb : s.busy = true) (n : Nat) :
    s.memRead off n = (.busErr, 0#64) := by
  refine memRead_of_readReg_busErr ?_ n
  rcases regAt_of_ge hoff with h | ⟨i, h⟩ | ⟨i, h⟩ | ⟨i, h⟩ | ⟨i, h⟩ | ⟨i, h⟩ <;> simp [h, State.readReg, hb]

/-- A write to a reserved offset or to the read-only DIG or R is refused: `memWrite_cases` with every offset that it
names outside the ranges. -/
theorem memWrite_of_unwritable
    (h : (0x030 ≤ off.toNat ∧ off.toNat < 0x080) ∨ (0x100 ≤ off.toNat ∧ off.toNat < 0x400) ∨ 0xC00 ≤ off.toNat)
    (n : Nat) (v : Word) : s.memWrite off n v = (s, .busErr) := by
  rcases memWrite_cases s off n v with href | ⟨-, rfl, -⟩ | ⟨-, rfl, -⟩ | ⟨-, rfl, -⟩ | ⟨-, i, -, rfl, -⟩
    | ⟨-, i, -, rfl, -⟩ | ⟨-, i, -, rfl, -⟩
  · exact href
  iterate 3 exact absurd h (by decide)
  · rw [toNat_offM] at h; omega
  · rw [toNat_offX] at h; omega
  · rw [toNat_offY] at h; omega

/-- While a command runs no buffer can be written (R59). -/
theorem memWrite_of_busy (hoff : 0x080 ≤ off.toNat) (hb : s.busy = true) (n : Nat) (v : Word) :
    s.memWrite off n v = (s, .busErr) := by
  rcases memWrite_cases s off n v with href | ⟨-, rfl, -⟩ | ⟨-, rfl, -⟩ | ⟨-, rfl, -⟩ | ⟨hidle, -⟩ | ⟨hidle, -⟩
    | ⟨hidle, -⟩
  · exact href
  iterate 3 exact absurd hoff (by decide)
  all_goals simp [hidle] at hb

end

/-! ### R56 and R57 -/

theorem step_read {s : State} {off : BitVec 12} {n : Nat} {rest : List Input} (h : s.inputs = .read off n :: rest) :
    step s = .next (hostRead off n (s.begin rest)) := by
  rw [step, h]
  rfl

/-- Settles O41: the lemmas on reads offset by offset; a read step ends in `hostRead`, which sets only `resp`. -/
theorem readsFollowRule : Obligations.ReadsFollowRule := by
  refine ⟨fun s => ⟨memRead_offId s, memRead_offCmd s, memRead_offStatus s, memRead_offCount s, memRead_offIrqEn s,
    memRead_offIrqPend s, fun _ _ hres => memRead_of_reserved hres 8, fun _ _ hoff hb => memRead_of_busy hoff hb 8,
    fun hidle => ?buffers⟩, fun s t off n rest hin hstep => ?frame⟩
  case buffers => simp [hidle]
  case frame =>
    rw [step_read hin] at hstep
    obtain rfl := Host.Outcome.next.inj hstep
    rfl

/-- Settles O42: the lemmas on writes offset by offset; an accepted write is an update of one field. -/
theorem writesFollowRule : Obligations.WritesFollowRule := by
  refine fun s v => ⟨memWrite_offCmd s v, memWrite_offIrqEn s v, memWrite_offIrqPend s v, memWrite_offId s v,
    memWrite_offStatus s v, memWrite_offCount s v, fun _ _ hro => memWrite_of_unwritable hro 8 v,
    fun _ _ hoff hb => memWrite_of_busy hoff hb 8 v, fun hidle => ?buffers⟩
  case buffers => simp [hidle]

end Sys2Proof.Machine
end

section
/-! SUPPORT. The functions of BLAKE2b (40_blake2b.md R100 to R107): the mixing function, the compression, the initial
chaining value and padding. -/

namespace Sys2Proof.Machine

/-! ### MIX (R103) -/

section
variable {q : Quad}

/-- The places of a quadruple as the inequations that `words_set` asks for. -/
theorem Quad.ne_of_nodup (hq : [q.a, q.b, q.c, q.d].Nodup) :
    q.a ≠ q.b ∧ q.a ≠ q.c ∧ q.a ≠ q.d ∧ q.b ≠ q.c ∧ q.b ≠ q.d ∧ q.c ≠ q.d := by
  simpa [and_assoc] using hq

theorem mix_getElem_of_notMem (v : Words 16) (x y : Word) {j : Fin 16} (hj : j ∉ [q.a, q.b, q.c, q.d]) :
    (mix v q x y)[j] = v[j] := by
  obtain ⟨hja, hjb, hjc, hjd⟩ : j ≠ q.a ∧ j ≠ q.b ∧ j ≠ q.c ∧ j ≠ q.d := by simpa using hj
  simp only [mix, words_set, hja, hjb, hjc, hjd, if_false]

end

/-- Settles O28: each of the eight assignments of `mix` reads, by `words_set`, what the last one to that place wrote. -/
theorem mixUpdatesItsFourWords : Obligations.MixUpdatesItsFourWords := by
  intro v q x y hq
  obtain ⟨hab, hac, had, hbc, hbd, hcd⟩ := Quad.ne_of_nodup hq
  refine ⟨?_, ?_, ?_, ?_, fun j hj => mix_getElem_of_notMem v x y hj⟩
  all_goals
    simp only [mix, words_set, if_true, if_false, hab, hac, had, hbc, hbd, hcd, hab.symm, hac.symm, had.symm,
      hbc.symm, hbd.symm, hcd.symm]

/-! ### The compression F (R104) -/

/-- Words 12 and 14, the only ones changed after H and IV are laid out, stand in the upper half. -/
theorem workInit_low (h : Words 8) (t : Word) (f : Bool) (i : Fin 8) : (workInit h t f)[i.val] = h[i] := by
  have h12 : 12 ≠ i.val := by omega
  have h14 : 14 ≠ i.val := by omega
  cases f <;> simp [workInit, h12, h14]

theorem workInit_high (h : Words 8) (t : Word) (f : Bool) (i : Fin 8) : (workInit h t f)[i.val + 8] =
    if i = 4 then iv[i] ^^^ t else if i = 6 ∧ f = true then iv[i] ^^^ 0xFFFFFFFFFFFFFFFF#64 else iv[i] := by
  by_cases h4 : i = 4
  · subst h4
    cases f <;> simp [workInit]
  by_cases h6 : i = 6
  · subst h6
    cases f <;> simp [workInit, allOnes]
  have h12 : 12 ≠ i.val + 8 := by omega
  have h14 : 14 ≠ i.val + 8 := by omega
  cases f <;> simp [workInit, h4, h6, h12, h14]

/-- The fold over the step numbers 0 to 7, step by step. -/
theorem roundF_steps (m v : Words 16) (r : Nat) : roundF m v r =
    roundStep m r (roundStep m r (roundStep m r (roundStep m r (roundStep m r (roundStep m r (roundStep m r
      (roundStep m r v 0) 1) 2) 3) 4) 5) 6) 7 := rfl

theorem compress_getElem (h : Words 8) (m : Words 16) (t : Word) (f : Bool) (i : Fin 8) :
    (compress h m t f)[i] = h[i] ^^^ (workRounds h m t f)[i.val] ^^^ (workRounds h m t f)[i.val + 8] := by
  simp [compress, foldWork]

/-- Settles O30: the start vector by its two halves, a round by its eight steps, whose places and SIGMA columns `rfl`
reads off, and the fold word by word. -/
theorem compressionFollowsRule : Obligations.CompressionFollowsRule :=
  ⟨fun h t f i => ⟨workInit_low h t f i, workInit_high h t f i⟩, roundF_steps, compress_getElem⟩

/-! ### HINIT (R105) -/

theorem hinit_zero (nn : BitVec 7) :
    (hinit nn)[0] = 0x6A09E667F3BCC908#64 ^^^ 0x0000000001010000#64 ^^^ nn.setWidth 64 := rfl

theorem hinit_of_ne_zero (nn : BitVec 7) {i : Fin 8} (hi : i ≠ 0) : (hinit nn)[i] = iv[i] :=
  (words_set iv 0 _ i).trans (if_neg hi)

/-- Word 0 determines nn: the constants cancel, and widening nn loses nothing. -/
theorem hinit_injective : Function.Injective hinit := by
  intro n n' h
  have h0 : (hinit n)[0] = (hinit n')[0] := by rw [h]
  rw [hinit_zero, hinit_zero, BitVec.xor_right_inj] at h0
  simpa using congrArg (BitVec.setWidth 7) h0

/-- Settles O31: HINIT writes word 0 of IV alone, and that word determines nn. -/
theorem initialChainingValueFollowsRule : Obligations.InitialChainingValueFollowsRule :=
  ⟨fun nn => ⟨hinit_zero nn, fun _ => hinit_of_ne_zero nn⟩, rfl, rfl, rfl, fun _ _ => hinit_injective.ne⟩

/-! ### PAD (R107) -/

theorem byteOf_pad (m : Words 16) (len : Nat) (i : Fin 16) (k : Fin 8) :
    byteOf (pad m len)[i] k.val = if 8 * i.val + k.val < len then byteOf m[i] k.val else 0#8 := by
  simp [pad]

/-- Settles O32: byte by byte, from which two buffers with the same bytes below `len` have the same padding. -/
theorem paddingZeroesBytesFromLenOn : Obligations.PaddingZeroesBytesFromLenOn := by
  refine ⟨fun m len i k _ => byteOf_pad m len i k, fun m m' len _ h => words_eq_of_bytes fun i k => ?_⟩
  rw [byteOf_pad, byteOf_pad]
  exact if_ctx_congr Iff.rfl (h i k) fun _ => rfl

end Sys2Proof.Machine
end

section
/-! SUPPORT. The commands that start a hash, INIT64 and INITV (40_blake2b.md R110, R111). -/

namespace Sys2Proof.Machine

/-- Bits that a row's mask covers and its match has at 0 are reserved: with one of them at 1 a word of the row is E_RSVD
(30_encoding.md R83, R85). -/
theorem checkWord_of_reserved {w : Word} (o : Opcode) {start len : Nat} (s : State) (hop : opField w = o.byte)
    (hmask : o.maskWord.extractLsb' start len = BitVec.allOnes len)
    (hmatch : o.matchWord.extractLsb' start len = 0#len) (hw : w.extractLsb' start len ≠ 0#len) :
    checkWord w s = .eRsvd := by
  have hne : w &&& o.maskWord ≠ o.matchWord := fun h => hw <| by
    rw [← hmatch, ← h, BitVec.extractLsb'_and, hmask, BitVec.and_allOnes]
  simp only [checkWord, decode, opcodeOfByte_eq_some.2 hop, if_neg hne, decodeErrCode]

/-- Settles O14: INIT64 has no check but for its reserved bits, so `exec` is `initEffect` at 64 and the completion. -/
theorem init64StartsSixtyFourByteHash : Obligations.Init64StartsSixtyFourByteHash := fun s =>
  ⟨rfl, rfl, fun _ hop hres => checkWord_of_reserved .init64 s hop rfl rfl hres,
    ⟨{ s.work with progress := 0 }, exec_of_check (checkInstr_init64 s)⟩, rfl, fun _ => hinit_of_ne_zero 64#7⟩

/-- The match of INITV is 0 where NN stands. -/
theorem nnField_encode_initv (nn : BitVec 8) : nnField (encode (.initv nn)) = nn := by
  have hmatch : Opcode.initv.matchWord.extractLsb' 8 8 = 0#8 := rfl
  have hfield : (nn.setWidth 64 <<< 8).extractLsb' 8 8 = nn := by
    refine BitVec.eq_of_getLsbD_eq fun i hi => ?_
    have h64 : 8 + i < 64 := by omega
    simp [hi, h64]
  calc nnField (encode (.initv nn))
      = Opcode.initv.matchWord.extractLsb' 8 8 ||| (nn.setWidth 64 <<< 8).extractLsb' 8 8 := BitVec.extractLsb'_or
    _ = nn := by rw [hmatch, hfield, BitVec.zero_or]

theorem decode_encode_initv (nn : BitVec 8) : decode (encode (.initv nn)) = .ok (.initv nn) := by
  obtain ⟨hop, hmask⟩ := Laws.WordMatchesRow.initv nn
  exact decode_eq_ok.2 ⟨hop, hmask, congrArg Instr.initv (nnField_encode_initv nn).symm⟩

theorem checkInstr_initv_of_illegal {nn : BitVec 8} (s : State) (h : nn.toNat = 0 ∨ 64 < nn.toNat) :
    checkInstr (.initv nn) s = .eNn :=
  if_pos (h.imp_left fun h0 => BitVec.eq_of_toNat_eq h0)

theorem checkWord_encode_initv (nn : BitVec 8) (s : State) :
    checkWord (encode (.initv nn)) s = checkInstr (.initv nn) s := checkWord_ok s (decode_encode_initv nn)

/-- From NN on the bytes of the digest registers are 0 (10_state.md R33). -/
theorem byteOf_dig_of_le {s : State} {i k : Fin 8} (h : s.nn.toNat ≤ 8 * i.val + k.val) :
    byteOf (s.dig i) k.val = 0#8 := by
  rw [byteOf_dig, if_neg fun hk => Nat.not_lt.2 h hk.2]

theorem dig_eq_zero {s : State} {i : Fin 8} (h : s.nn.toNat ≤ 8 * i.val) : s.dig i = 0#64 :=
  word_eq_of_bytes fun k => by rw [byteOf_zero, byteOf_dig_of_le (by omega)]

/-- Bit i of a word is bit i mod 8 of its byte i / 8. -/
theorem getLsbD_eq_byteOf (w : Word) (i : Nat) : w.getLsbD i = (byteOf w (i / 8)).getLsbD (i % 8) := by
  have h8 : i % 8 < 8 := Nat.mod_lt i (by decide)
  simp [byteOf, h8, Nat.div_add_mod]

/-- Above byte 0 a word is zero when its bytes 1 to 7 are. -/
theorem extractLsb'_eight_eq_zero {w : Word} (h : ∀ k : Fin 8, k ≠ 0 → byteOf w k.val = 0#8) :
    w.extractLsb' 8 56 = 0#56 := by
  refine BitVec.eq_of_getLsbD_eq fun i hi => ?_
  have hbyte := h ⟨(8 + i) / 8, by omega⟩ (by simp [Fin.ext_iff])
  rw [BitVec.getLsbD_extractLsb', getLsbD_eq_byteOf, hbyte]
  simp

theorem dig_of_nn_one {s : State} (hnn : s.nn = 1#7) :
    (s.dig 0).extractLsb' 8 56 = 0#56 ∧ ∀ i : Fin 8, i ≠ 0 → s.dig i = 0#64 := by
  have h1 : s.nn.toNat = 1 := by rw [hnn]; rfl
  refine ⟨extractLsb'_eight_eq_zero fun k hk => byteOf_dig_of_le ?_, fun i hi => dig_eq_zero ?_⟩ <;> omega

/-- Settles O15: the word by decoding its encoding, E_NN and acceptance by the two sides of the range of nn, and the
digest registers byte by byte. -/
theorem initvStartsVariableHash : Obligations.InitvStartsVariableHash := by
  refine ⟨fun nn => ?word, fun s w hop hres => checkWord_of_reserved .initv s hop rfl rfl hres,
    fun s nn hnn => ?illegal, fun s nn hpos hle => ?legal, rfl, rfl, fun _ => dig_of_nn_one⟩
  case word =>
    rw [BitVec.or_comm]
    exact decode_encode_initv nn
  case illegal => rw [checkWord_encode_initv, checkInstr_initv_of_illegal s hnn]
  case legal =>
    have hcheck : checkInstr (.initv nn) s = .eNone := checkInstr_initv.2 ⟨hpos, hle⟩
    exact ⟨(checkWord_encode_initv nn s).trans hcheck, { s.work with progress := 0 }, exec_of_check hcheck⟩

end Sys2Proof.Machine
end

section
/-! SUPPORT. The Argon2 block compression (41_gcomp.md R140 to R144): FBL, the quarter-round GB, the permutation P and
its places in a block, and G. -/

namespace Sys2Proof.Machine

/-! ### FBL (R140) -/

theorem toNat_lo32 (x : Word) : (lo32 x).toNat = x.toNat % 2 ^ 32 := by
  have hlt : x.toNat % 2 ^ 32 < 2 ^ 64 := (Nat.mod_lt _ (by decide)).trans (by decide)
  rw [lo32, BitVec.toNat_setWidth, BitVec.extractLsb'_toNat, Nat.shiftRight_zero, Nat.mod_eq_of_lt hlt]

/-- The operations of FBL wrap one by one, which comes to one reduction at the end. -/
theorem toNat_fbl (x y : Word) : (fbl x y).toNat =
    (x.toNat + y.toNat + 2 * ((x.toNat % 2 ^ 32) * (y.toNat % 2 ^ 32))) % 2 ^ 64 := by
  have h2 : (2#64 : Word).toNat = 2 := rfl
  simp only [fbl, BitVec.toNat_add, BitVec.toNat_mul, toNat_lo32, h2, Nat.mul_mod_mod, Nat.add_mod_mod, Nat.mod_add_mod]

theorem fbl_zero_left (x : Word) : fbl 0#64 x = x := by
  have hlo : lo32 0#64 = 0#64 := rfl
  rw [fbl, hlo, BitVec.zero_mul, BitVec.mul_zero, BitVec.add_zero, BitVec.zero_add]

/-- Settles O35: FBL as a number, its value at 0, and the other examples by computation. -/
theorem productAddFollowsRule : Obligations.ProductAddFollowsRule :=
  ⟨toNat_fbl, rfl, rfl, rfl, fbl_zero_left⟩

/-! ### The quarter-round GB (R141) -/

theorem gb_getElem_of_notMem (v : Words 16) {q : Quad} {j : Fin 16} (hj : j ∉ [q.a, q.b, q.c, q.d]) :
    (gb v q)[j] = v[j] := by
  obtain ⟨hja, hjb, hjc, hjd⟩ : j ≠ q.a ∧ j ≠ q.b ∧ j ≠ q.c ∧ j ≠ q.d := by simpa using hj
  simp only [gb, words_set, hja, hjb, hjc, hjd, if_false]

/-- Settles O29: each assignment of `gb` reads, by `words_set`, what the last one to that place wrote. -/
theorem quarterRoundUpdatesItsFourWords : Obligations.QuarterRoundUpdatesItsFourWords := by
  intro v q hq
  obtain ⟨hab, hac, had, hbc, hbd, hcd⟩ := Quad.ne_of_nodup hq
  refine ⟨?_, ?_, ?_, ?_, fun j => gb_getElem_of_notMem v⟩
  all_goals
    simp only [gb, words_set, if_true, if_false, hab, hac, had, hbc, hbd, hcd, hab.symm, hac.symm, had.symm,
      hbc.symm, hbd.symm, hcd.symm]

/-! ### The zero vector is a fixed point of GB, P and the block permutation (R142, R144) -/

/-- Every assignment of `gb` then writes 0: FBL(0, 0) and the rotations of 0 are 0. -/
theorem gb_zeroWords (q : Quad) : gb (zeroWords 16) q = zeroWords 16 := by
  have h32 : rotr 0#64 32 = 0#64 := rfl
  have h24 : rotr 0#64 24 = 0#64 := rfl
  have h16 : rotr 0#64 16 = 0#64 := rfl
  have h63 : rotr 0#64 63 = 0#64 := rfl
  simp only [gb, zeroWords, Fin.getElem_fin, Vector.getElem_replicate, Vector.set_replicate_self, fbl_zero_left,
    BitVec.xor_zero, h32, h24, h16, h63]

theorem permP_zeroWords : permP (zeroWords 16) = zeroWords 16 := List.foldl_fixed' gb_zeroWords _

theorem permAt_zeroWords (ix : Fin 16 → Fin 128) : permAt ix (zeroWords 128) = zeroWords 128 := by
  have hread : (Vector.ofFn fun k => (zeroWords 128)[ix k]) = zeroWords 16 := by
    ext i hi
    simp [zeroWords]
  have hwrite (k : Fin 16) : (zeroWords 128).set (ix k) (zeroWords 16)[k] = zeroWords 128 := by
    simp [zeroWords]
  simp only [permAt, hread, permP_zeroWords]
  exact List.foldl_fixed' hwrite _

theorem foldl_permAt_zeroWords (ix : Fin 8 → Fin 16 → Fin 128) (l : List (Fin 8)) :
    l.foldl (fun q i => permAt (ix i) q) (zeroWords 128) = zeroWords 128 :=
  List.foldl_fixed' (fun i => permAt_zeroWords (ix i)) l

theorem permBlock_zeroWords : permBlock (zeroWords 128) = zeroWords 128 := by
  simp only [permBlock, foldl_permAt_zeroWords]

/-! ### P on sixteen words of a block (R143) -/

theorem words_ext {n : Nat} {v w : Words n} (h : ∀ j : Fin n, v[j] = w[j]) : v = w :=
  Vector.ext fun j hj => h ⟨j, hj⟩

theorem permAt_getElem_of_ne (q : Words 128) {ix : Fin 16 → Fin 128} {j : Fin 128} (hj : ∀ k, ix k ≠ j) :
    (permAt ix q)[j] = q[j] := scatter_other ix _ _ q j hj

theorem permAt_getElem (q : Words 128) {ix : Fin 16 → Fin 128} (hix : Function.Injective ix) (k : Fin 16) :
    (permAt ix q)[ix k] = (permP (Vector.ofFn fun j => q[ix j]))[k] :=
  scatter_mem ix hix _ _ q k (List.mem_finRange k)

section
variable {ix ix' : Fin 16 → Fin 128} (hdis : ∀ k k', ix k ≠ ix' k')
include hdis

/-- An invocation at `ix'` leaves the words that one at `ix` reads, so what the latter writes does not depend on it. -/
theorem permAt_permAt_getElem (hix : Function.Injective ix) (q : Words 128) (k : Fin 16) :
    (permAt ix (permAt ix' q))[ix k] = (permAt ix q)[ix k] := by
  simp only [permAt_getElem _ hix, permAt_getElem_of_ne q fun k' => (hdis _ k').symm]

/-- Disjoint invocations commute: a word is written by the first, by the second, or by neither. -/
theorem permAt_comm (hix : Function.Injective ix) (hix' : Function.Injective ix') (q : Words 128) :
    permAt ix (permAt ix' q) = permAt ix' (permAt ix q) := by
  have hdis' (k k' : Fin 16) : ix' k ≠ ix k' := (hdis k' k).symm
  refine words_ext fun j => ?_
  by_cases h : ∃ k, ix k = j
  · obtain ⟨k, rfl⟩ := h
    rw [permAt_permAt_getElem hdis hix, permAt_getElem_of_ne _ fun k' => hdis' k' k]
  by_cases h' : ∃ k, ix' k = j
  · obtain ⟨k, rfl⟩ := h'
    rw [permAt_permAt_getElem hdis' hix', permAt_getElem_of_ne _ fun k' => hdis k' k]
  · have hj : ∀ k, ix k ≠ j := not_exists.1 h
    have hj' : ∀ k, ix' k ≠ j := not_exists.1 h'
    simp only [permAt_getElem_of_ne _ hj, permAt_getElem_of_ne _ hj']

end

/-- Over a family of invocations on different words the order does not matter. -/
theorem foldl_permAt_of_perm {ix : Fin 8 → Fin 16 → Fin 128} (hix : Function.Injective2 ix) {l l' : List (Fin 8)}
    (hl : l.Perm l') (q : Words 128) :
    l.foldl (fun q i => permAt (ix i) q) q = l'.foldl (fun q i => permAt (ix i) q) q := by
  have hcomm : RightCommutative fun (q : Words 128) (i : Fin 8) => permAt (ix i) q := by
    refine ⟨fun q i i' => ?_⟩
    by_cases hi : i = i'
    · rw [hi]
    · exact permAt_comm (fun _ _ h => hi (hix h).1.symm) (hix.right i') (hix.right i) q
  exact hl.foldl_eq q

theorem rowIndex_val (i : Fin 8) (k : Fin 16) : (rowIndex i k).val = 16 * i.val + k.val :=
  Nat.mod_eq_of_lt (by omega)

theorem colIndex_val (i : Fin 8) (k : Fin 16) :
    (colIndex i k).val = 16 * (k.val / 2) + 2 * i.val + k.val % 2 := Nat.mod_eq_of_lt (by omega)

/-- Row and word are the quotient and the remainder by 16. -/
theorem rowIndex_injective2 : Function.Injective2 rowIndex := by
  intro i i' k k' h
  have hval := congrArg Fin.val h
  rw [rowIndex_val, rowIndex_val] at hval
  constructor <;> omega

/-- In mixed radix 16, 2, 1 the place gives k / 2, the column and k mod 2. -/
theorem colIndex_injective2 : Function.Injective2 colIndex := by
  intro i i' k k' h
  have hval := congrArg Fin.val h
  rw [colIndex_val, colIndex_val] at hval
  constructor <;> omega

/-! ### G (R143, R144) -/

theorem xorBlock_getElem (x y : Words 128) (i : Fin 128) : (xorBlock x y)[i] = x[i] ^^^ y[i] := by
  simp [xorBlock]

/-- Settles O36: the folds of P and G step by step, the places as numbers, and the commutation of disjoint invocations
for rows and for columns. -/
theorem blockPermutationFollowsRule : Obligations.BlockPermutationFollowsRule := by
  refine ⟨fun v => rfl, permP_zeroWords, rowIndex_val, fun i k b => ?column,
    fun q ix hix => ⟨permAt_getElem q hix, fun j => permAt_getElem_of_ne q⟩,
    fun q l hl => ⟨foldl_permAt_of_perm rowIndex_injective2 hl q, foldl_permAt_of_perm colIndex_injective2 hl q⟩,
    fun x y => xorBlock_getElem (permBlock (xorBlock x y)) (xorBlock x y)⟩
  case column =>
    have hdiv : (2 * k.val + b.val) / 2 = k.val := by omega
    have hmod : (2 * k.val + b.val) % 2 = b.val := by omega
    rw [colIndex_val, hdiv, hmod]

theorem xorBlock_self (x : Words 128) : xorBlock x x = zeroWords 128 := by
  ext i hi
  simp [xorBlock, zeroWords]

/-- The two blocks enter G through their exclusive or alone. -/
theorem gFun_congr {x y x' y' : Words 128} (h : ∀ i : Fin 128, x[i] ^^^ y[i] = x'[i] ^^^ y'[i]) :
    gFun x y = gFun x' y' := by
  have hxor : xorBlock x y = xorBlock x' y' := congrArg Vector.ofFn (funext h)
  simp only [gFun, hxor]

/-- The exclusive or of equal blocks is zero, and P keeps zero. -/
theorem gFun_self (x : Words 128) : gFun x x = zeroWords 128 := by
  simp only [gFun, xorBlock_self, permBlock_zeroWords]

/-- Settles O37: G sees only the exclusive or, which is commutative, and is zero for equal blocks. -/
theorem blockCompressionLaws : Obligations.BlockCompressionLaws :=
  ⟨fun x y => gFun_congr fun i => BitVec.xor_comm x[i] y[i], gFun_self, fun _ _ _ _ => gFun_congr⟩

end Sys2Proof.Machine
end

section
/-! SUPPORT. The control commands ZEROIZE and ACK (42_control.md R160, R161). -/

namespace Sys2Proof.Machine

/-! ### Issuing a recovery command (60_exceptions.md R171, R172) -/

section
variable {s : State} {w : Word}

/-- With the engine free a recovery command gets to its check, whether an error is recorded or not. -/
theorem issueCommand_of_isRecoveryOp (hidle : s.busy = false) (hop : isRecoveryOp w = true) :
    s.issueCommand w =
      if checkWord w s = .eNone then (s.acceptCommand w, .ok) else (s.raiseCmdError (checkWord w s), .ok) := by
  simp [issueCommand_eq, hidle, hop]

theorem memWrite_offCmd_accepts (hidle : s.busy = false) (hop : isRecoveryOp w = true)
    (hcheck : checkWord w s = .eNone) :
    (s.memWrite 0x008#12 8 w).2 = .ok ∧ (s.memWrite 0x008#12 8 w).1.busy = true := by
  rw [memWrite_offCmd, issueCommand_of_isRecoveryOp hidle hop, if_pos hcheck]
  exact ⟨rfl, rfl⟩

/-- A second error keeps the code of the first. -/
theorem raiseCmdError_of_err (herr : s.err = true) (e : ErrCode) :
    s.raiseCmdError e = { s with irqPend := setErrp s.irqPend } := by
  rw [State.raiseCmdError, if_pos herr, ← herr]

theorem memWrite_offCmd_of_malformed (hidle : s.busy = false) (herr : s.err = true) (hop : isRecoveryOp w = true)
    (hcheck : checkWord w s ≠ .eNone) :
    s.memWrite 0x008#12 8 w = ({ s with irqPend := setErrp s.irqPend }, .ok) := by
  rw [memWrite_offCmd, issueCommand_of_isRecoveryOp hidle hop, if_neg hcheck, raiseCmdError_of_err herr]

/-! ### What the registers show in IDLE (10_state.md R26, R33) -/

theorem dig_of_idle (hidle : s.hstate = .idle) (i : Fin 8) : s.dig i = 0#64 := by
  rw [State.dig, hidle]

theorem statusWord_eq_zero (hbusy : s.busy = false) (herr : s.err = false) (hcode : s.errcode = .eNone)
    (hhstate : s.hstate = .idle) (hnn : s.nn = 0#7) : s.statusWord = 0#64 := by
  rw [State.statusWord, hbusy, herr, hcode, hhstate, hnn]
  rfl

end

/-- Settles O19: ZEROIZE has no check but for its reserved bits, so `exec` is `zeroizeEffect` and the completion; the
state it leaves is in IDLE. -/
theorem zeroizeClearsAllData : Obligations.ZeroizeClearsAllData := fun s =>
  ⟨rfl, fun hidle => memWrite_offCmd_accepts hidle rfl rfl,
    fun _ hop hres => checkWord_of_reserved .zeroize s hop rfl rfl hres,
    0, (zeroizeEffect s).finishCommand, exec_of_check (checkInstr_zeroize s), rfl, dig_of_idle rfl,
    fun herr hcode => statusWord_eq_zero rfl herr hcode rfl rfl⟩

/-! ### ACK (R161) -/

/-- Where no error is recorded the effect of ACK changes nothing. -/
theorem ackEffect_of_no_error {s : State} (herr : s.err = false) (hcode : s.errcode = .eNone) : ackEffect s = s := by
  rw [ackEffect, ← herr, ← hcode]

/-- Settles O20: ACK has no check but for its reserved bits, so `exec` is `ackEffect` and the completion; by the
invariant the effect is nothing where ERR = 0. -/
theorem ackLeavesErrorState : Obligations.AckLeavesErrorState := by
  refine ⟨fun s => ⟨rfl, fun hidle => memWrite_offCmd_accepts hidle rfl rfl, fun w hop hres => ?malformed,
    { s.work with progress := 0 }, exec_of_check (checkInstr_ack s)⟩, fun s t hinv herr hexec => ?noError,
    ?initvZero, _, exec_of_check (checkInstr_ack _), statusWord_eq_zero rfl rfl rfl rfl rfl⟩
  case malformed =>
    have hcheck : checkWord w s = .eRsvd := checkWord_of_reserved .ack s hop rfl rfl hres
    have hne : checkWord w s ≠ .eNone := by simp [hcheck]
    exact ⟨hcheck, fun hidle herr =>
      memWrite_offCmd_of_malformed hidle herr ((isRecoveryOp_iff w).2 (.inr hop)) hne⟩
  case noError =>
    rw [exec_of_check (checkInstr_ack s)] at hexec
    obtain rfl := Host.Outcome.next.inj hexec
    rw [effectOf, ackEffect_of_no_error herr (hinv.err_code.1 herr)]
    rfl
  case initvZero => rfl

end Sys2Proof.Machine
end

section
/-! SUPPORT. Issuing a command: the bus-error conditions of a CMD write, the check of a command word in its order, and
the error entry (60_exceptions.md R171 to R173). -/

namespace Sys2Proof.Machine

/-! ### When a CMD write gets to the check (R171) -/

section
variable {s : State} {w : Word}

theorem memWrite_offCmd_of_refused
    (h : s.busy = true ∨ s.err = true ∧ opField w ≠ 0x0E#8 ∧ opField w ≠ 0x0F#8) :
    s.memWrite 0x008#12 8 w = (s, .busErr) := by
  rw [memWrite_offCmd, issueCommand_eq]
  rcases h with hbusy | ⟨herr, hzero, hack⟩
  · rw [if_pos hbusy]
  · have hop : isRecoveryOp w = false := by simp [isRecoveryOp, hzero, hack]
    rw [if_pos (⟨herr, hop⟩ : s.err = true ∧ isRecoveryOp w = false), ite_self]

theorem memWrite_offCmd_of_admitted (hidle : s.busy = false)
    (h : s.err = false ∨ opField w = 0x0E#8 ∨ opField w = 0x0F#8) :
    s.memWrite 0x008#12 8 w =
      if checkWord w s = .eNone then (s.acceptCommand w, .ok) else (s.raiseCmdError (checkWord w s), .ok) := by
  rcases h with herr | hop
  · simp [issueCommand_eq, hidle, herr]
  · exact (memWrite_offCmd s w).trans (issueCommand_of_isRecoveryOp hidle ((isRecoveryOp_iff w).2 hop))

/-- In an idle block without an error the code that the check gives is the one that is recorded. -/
theorem memWrite_offCmd_errcode (hidle : s.busy = false) (herr : s.err = false) {e : ErrCode}
    (hcheck : checkWord w s = e) (he : e ≠ .eNone) : (s.memWrite 0x008#12 8 w).1.errcode = e := by
  rw [memWrite_offCmd_of_admitted hidle (.inl herr), hcheck, if_neg he]
  simp [herr]

end

/-- Settles O5: a CMD write is refused before the check, or the check decides between acceptance and error entry. -/
theorem commandWriteFollowsIssueRule : Obligations.CommandWriteFollowsIssueRule := by
  refine fun s w => ⟨fun hbusy => memWrite_offCmd_of_refused (.inl hbusy),
    fun _ herr hzero hack => memWrite_offCmd_of_refused (.inr ⟨herr, hzero, hack⟩),
    fun hidle hadm hcheck => ⟨?rejected, rfl⟩,
    fun hidle hadm hcheck => ⟨Config.freeWork s.freeCount, s.freeCount + 1, ?accepted⟩⟩
  case rejected => rw [memWrite_offCmd_of_admitted hidle hadm, if_neg hcheck]
  case accepted =>
    rw [memWrite_offCmd_of_admitted hidle hadm, if_pos hcheck]
    rfl

/-! ### The check by rows of the opcode map (R172) -/

section
variable {w : Word}

theorem mem_opcodeBytes_iff {b : BitVec 8} :
    b ∈ [0x01#8, 0x02#8, 0x03#8, 0x04#8, 0x08#8, 0x0E#8, 0x0F#8] ↔ ∃ o : Opcode, b = o.byte := by
  constructor
  · simp only [List.mem_cons, List.not_mem_nil, or_false]
    rintro (h | h | h | h | h | h | h)
    exacts [⟨.init64, h⟩, ⟨.initv, h⟩, ⟨.block, h⟩, ⟨.last, h⟩, ⟨.gcomp, h⟩, ⟨.zeroize, h⟩, ⟨.ack, h⟩]
  · rintro ⟨o, rfl⟩
    cases o <;> decide

theorem checkWord_of_no_row (s : State) (h : ¬∃ o : Opcode, opField w = o.byte) : checkWord w s = .eOpcode := by
  have hnone : opcodeOfByte (opField w) = none :=
    Option.eq_none_iff_forall_ne_some.2 fun o ho => h ⟨o, opcodeOfByte_eq_some.1 ho⟩
  simp only [checkWord, decode, hnone, decodeErrCode]

theorem checkWord_of_row (s : State) {o : Opcode} (h : opField w = o.byte) :
    checkWord w s = if w &&& o.maskWord = o.matchWord then checkInstr (o.build w) s else .eRsvd := by
  simp only [checkWord, decode, opcodeOfByte_eq_some.2 h]
  by_cases hmask : w &&& o.maskWord = o.matchWord
  · simp only [if_pos hmask]
  · simp only [if_neg hmask, decodeErrCode]

end

/-- Settles O6: in a row the opcode is known, which leaves of the rule's tests those of that row, in their order. -/
theorem checkAndErrorEntryFollowRule : Obligations.CheckAndErrorEntryFollowRule := by
  refine ⟨fun s w => ?check, fun s w e hcheck he hidle hadm => ?entry⟩
  case check =>
    by_cases hmem : opField w ∈ [0x01#8, 0x02#8, 0x03#8, 0x04#8, 0x08#8, 0x0E#8, 0x0F#8]
    · obtain ⟨o, ho⟩ := mem_opcodeBytes_iff.1 hmem
      rw [checkWord_of_row s ho]
      have hop : w.extractLsb' 0 8 = o.byte := ho
      cases o with
      | init64 | gcomp | zeroize | ack =>
        simp [hop, Opcode.byte, Opcode.maskWord, Opcode.matchWord, Opcode.build]
        rfl
      | initv =>
        simp [hop, Opcode.byte, Opcode.maskWord, Opcode.matchWord, Opcode.build, checkInstr, nnField]
        rfl
      | block => simp [hop, Opcode.byte, Opcode.maskWord, Opcode.matchWord, Opcode.build, checkInstr]
      | last => simp [hop, Opcode.byte, Opcode.maskWord, Opcode.matchWord, Opcode.build, checkInstr, lenField]
    · rw [checkWord_of_no_row s (mem_opcodeBytes_iff.not.1 hmem)]
      exact (if_pos hmem).symm
  case entry =>
    rw [memWrite_offCmd_of_admitted hidle hadm, hcheck, if_neg he]
    cases herr : s.err <;> simp [State.raiseCmdError, herr, setErrp]

/-! ### The faults of a word in the order of R173 -/

section
variable {s : State} {len : BitVec 8}

theorem wf_initv_eq_false_iff {nn : BitVec 8} :
    (Instr.initv nn).wf = false ↔ nn.toNat = 0 ∨ 64 < nn.toNat := by
  simp only [Instr.wf, Bool.and_eq_false_iff, decide_eq_false_iff_not]
  omega

theorem wf_last_eq_false_iff : (Instr.last len).wf = false ↔ 128 < len.toNat := by
  simp only [Instr.wf, decide_eq_false_iff_not, not_le]

theorem checkInstr_last_of_illegal (h : 128 < len.toNat) : checkInstr (.last len) s = .eLen := if_pos h

/-- The two causes of E_SEQ for LAST. -/
theorem checkInstr_last_of_sequence (hlen : ¬128 < len.toNat)
    (hseq : s.hstate ≠ .absorb ∨ len = 0#8 ∧ s.t ≠ 0#64) : checkInstr (.last len) s = .eSeq := by
  rw [checkInstr, if_neg hlen]
  rcases hseq with hstate | hempty
  · rw [if_pos hstate]
  · rw [if_pos hempty, ite_self]

theorem checkInstr_last_of_overflow (hlen : ¬128 < len.toNat)
    (hseq : ¬(s.hstate ≠ .absorb ∨ len = 0#8 ∧ s.t ≠ 0#64)) (h : 2 ^ 64 - 1 < s.t.toNat + len.toNat) :
    checkInstr (.last len) s = .eCount := by
  obtain ⟨hstate, hempty⟩ := not_or.1 hseq
  have hcount : 2 ^ 64 - 1 - len.toNat < s.t.toNat := by omega
  rw [checkInstr, if_neg hlen, if_neg hstate, if_neg hempty, if_pos hcount]

theorem checkInstr_block_of_sequence (h : s.hstate ≠ .absorb) : checkInstr .block s = .eSeq := if_pos h

theorem checkInstr_block_of_overflow (hstate : s.hstate = .absorb) (h : 2 ^ 64 - 1 < s.t.toNat + 128) :
    checkInstr .block s = .eCount := by
  have hcount : 2 ^ 64 - 1 - 128 < s.t.toNat := by omega
  rw [checkInstr, if_neg (not_not.2 hstate), if_pos hcount]

end

/-- Settles O7: a word that decodes has only the faults of its command, and the check of that command looks for them in
the rule's order. -/
theorem faultPriorityFollowsRule : Obligations.FaultPriorityFollowsRule := by
  refine ⟨fun s w hidle herr => ?priority, fun s w h => memWrite_offCmd_of_refused h,
    fun s hidle herr hstate => ⟨?lastExample, ?blockExample⟩⟩
  case priority =>
    simp only [memWrite_offCmd_of_admitted hidle (.inl herr)]
    cases hdec : decode w with
    | error e => cases e <;> simp [checkWord, hdec, decodeErrCode, herr]
    | ok i =>
      rw [checkWord_ok s hdec]
      cases i with
      | init64 | gcomp | zeroize | ack => simp [herr]
      | initv nn =>
        by_cases hnn : nn.toNat = 0 ∨ 64 < nn.toNat
        · simp [wf_initv_eq_false_iff, hnn, herr, checkInstr_initv_of_illegal s hnn]
        · have hcheck : checkInstr (.initv nn) s = .eNone := checkInstr_initv.2 (by omega)
          simp [wf_initv_eq_false_iff, hnn, herr, hcheck]
      | block =>
        by_cases hstate : s.hstate = .absorb
        · by_cases hcount : 2 ^ 64 - 1 < s.t.toNat + 128
          · simp [-Nat.reducePow, hstate, herr, hcount, checkInstr_block_of_overflow hstate hcount]
          · have hcheck : checkInstr .block s = .eNone := checkInstr_block.2 ⟨hstate, by omega⟩
            simp [-Nat.reducePow, hstate, herr, hcount, hcheck]
        · simp [hstate, herr, checkInstr_block_of_sequence hstate]
      | last len =>
        by_cases hlen : 128 < len.toNat
        · simp [wf_last_eq_false_iff, hlen, herr, checkInstr_last_of_illegal hlen]
        · by_cases hseq : s.hstate ≠ .absorb ∨ len = 0#8 ∧ s.t ≠ 0#64
          · simp [wf_last_eq_false_iff, hlen, herr, hseq, checkInstr_last_of_sequence hlen hseq]
          · obtain ⟨hstate, hempty⟩ := not_or.1 hseq
            by_cases hcount : 2 ^ 64 - 1 < s.t.toNat + len.toNat
            · simp [-Nat.reducePow, wf_last_eq_false_iff, hlen, hseq, herr, hcount,
                checkInstr_last_of_overflow hlen hseq hcount]
            · have hcheck : checkInstr (.last len) s = .eNone :=
                checkInstr_last.2 ⟨Nat.not_lt.1 hlen, not_not.1 hstate,
                  fun h0 => not_not.1 fun ht => hempty ⟨h0, ht⟩, by omega⟩
              simp [-Nat.reducePow, wf_last_eq_false_iff, hlen, hseq, herr, hcount, hcheck]
  case lastExample => exact memWrite_offCmd_errcode hidle herr (e := .eLen) rfl nofun
  case blockExample => exact memWrite_offCmd_errcode hidle herr (e := .eRsvd) rfl nofun

end Sys2Proof.Machine
end

section
/-! SUPPORT. Bus errors: which accesses the port refuses, and that a refused access changes nothing (60_exceptions.md
R178, R179). -/

namespace Sys2Proof.Machine

/-! ### Every cause of BUSERR (R179) -/

section
variable (s : State)

theorem issueCommand_busErr_iff (w : Word) : (s.issueCommand w).2 = .busErr ↔
    s.busy = true ∨ (s.err = true ∧ opField w ≠ 0x0E#8 ∧ opField w ≠ 0x0F#8) := by
  have hop : isRecoveryOp w = false ↔ opField w ≠ 0x0E#8 ∧ opField w ≠ 0x0F#8 := by
    rw [← not_or, ← isRecoveryOp_iff, Bool.not_eq_true]
  rw [issueCommand_eq, ← hop]
  by_cases hbusy : s.busy = true
  · simp [hbusy]
  · by_cases herr : s.err = true ∧ isRecoveryOp w = false
    · simp [hbusy, herr]
    · by_cases hcheck : checkWord w s = .eNone <;> simp [hbusy, herr, hcheck]

/-- A reserved offset refuses every read, and a buffer refuses one while a command runs. -/
theorem readReg_busErr_iff (off : BitVec 12) : (s.readReg (regAt off)).1 = .busErr ↔
    (0x030 ≤ off.toNat ∧ off.toNat < 0x080) ∨ (0x140 ≤ off.toNat ∧ off.toNat < 0x400)
    ∨ (0x080 ≤ off.toNat ∧ s.busy = true) := by
  rcases regAt_ranges off with ⟨hlt, h⟩ | ⟨hge, hlt, h⟩ | ⟨hge, hlt, h⟩ | ⟨hge, hlt, h⟩ | ⟨hge, hlt, h⟩
    | ⟨hge, hlt, h⟩ | ⟨hge, hlt, h⟩ | ⟨i, hi, h⟩ | ⟨i, hi, h⟩ | ⟨hge, hlt, h⟩ | ⟨i, hi, h⟩ | ⟨i, hi, h⟩ | ⟨i, hi, h⟩
  all_goals
    cases hbusy : s.busy
    all_goals
      simp only [h, State.readReg, hbusy, Bool.false_eq_true, reduceCtorEq, if_true, if_false, and_true, and_false,
        or_false, true_iff, false_iff]
      omega

/-- CMD apart, a write is refused at the read-only registers too. Away from the multiples of 8 the register would answer
as at the multiple of 8 below. -/
theorem writeReg_busErr_iff {off : BitVec 12} (haligned : off.toNat % 8 = 0) (hcmd : off.toNat ≠ 0x008) (v : Word) :
    (s.writeReg (regAt off) v).2 = .busErr ↔
    (0x030 ≤ off.toNat ∧ off.toNat < 0x080) ∨ (0x140 ≤ off.toNat ∧ off.toNat < 0x400)
    ∨ off.toNat = 0x000 ∨ off.toNat = 0x010 ∨ off.toNat = 0x018
    ∨ (0x100 ≤ off.toNat ∧ off.toNat < 0x140) ∨ 0xC00 ≤ off.toNat
    ∨ (0x080 ≤ off.toNat ∧ s.busy = true) := by
  rcases regAt_ranges off with ⟨hlt, h⟩ | ⟨hge, hlt, h⟩ | ⟨hge, hlt, h⟩ | ⟨hge, hlt, h⟩ | ⟨hge, hlt, h⟩
    | ⟨hge, hlt, h⟩ | ⟨hge, hlt, h⟩ | ⟨i, hi, h⟩ | ⟨i, hi, h⟩ | ⟨hge, hlt, h⟩ | ⟨i, hi, h⟩ | ⟨i, hi, h⟩ | ⟨i, hi, h⟩
  all_goals
    cases hbusy : s.busy
    all_goals
      simp only [h, State.writeReg, hbusy, Bool.false_eq_true, reduceCtorEq, if_true, if_false, and_true, and_false,
        or_false, true_iff, false_iff]
      omega

theorem memRead_of_malformed {off : BitVec 12} {n : Nat} (h : ¬(n = 8 ∧ off.toNat % 8 = 0)) :
    s.memRead off n = (.busErr, 0#64) :=
  if_neg ((accessFormOk_iff off n).not.2 h)

theorem memWrite_of_malformed {off : BitVec 12} {n : Nat} (h : ¬(n = 8 ∧ off.toNat % 8 = 0)) (v : Word) :
    s.memWrite off n v = (s, .busErr) :=
  if_neg ((accessFormOk_iff off n).not.2 h)

end

/-- Settles O44: an access of another form than R55's is refused, and one of that form is answered by the register at
its offset. -/
theorem busErrorsAreExactlyTheListed : Obligations.BusErrorsAreExactlyTheListed := by
  refine ⟨fun s off n => ?read, fun s off n v => ?write⟩
  case read =>
    by_cases hform : n = 8 ∧ off.toNat % 8 = 0
    · rw [memRead_of_accessFormOk ((accessFormOk_iff off n).2 hform), readReg_busErr_iff]
      simp only [hform, ne_eq, not_true_eq_false, false_or]
    · rw [memRead_of_malformed s hform]
      simp only [true_iff]
      omega
  case write =>
    by_cases hform : n = 8 ∧ off.toNat % 8 = 0
    · obtain ⟨rfl, haligned⟩ := hform
      by_cases hcmd : off.toNat = 0x008
      · obtain rfl : off = 0x008#12 := BitVec.eq_of_toNat_eq hcmd
        rw [memWrite_offCmd, issueCommand_busErr_iff]
        simp [opField]
      · rw [memWrite_of_accessFormOk ((accessFormOk_iff off 8).2 ⟨rfl, haligned⟩), writeReg_busErr_iff s haligned hcmd]
        simp only [haligned, hcmd, ne_eq, not_true_eq_false, false_and, or_false, false_or]
    · rw [memWrite_of_malformed s hform]
      simp only [true_iff]
      omega

/-! ### What a refused access does (R178) -/

section
variable {s : State}

theorem memRead_eq_of_busErr {off : BitVec 12} {n : Nat} (h : (s.memRead off n).1 = .busErr) :
    s.memRead off n = (.busErr, 0#64) := by
  by_cases hform : n = 8 ∧ off.toNat % 8 = 0
  · rw [memRead_of_accessFormOk ((accessFormOk_iff off n).2 hform)] at h
    rcases (readReg_busErr_iff s off).1 h with hres | hres | ⟨hoff, hbusy⟩
    exacts [memRead_of_reserved (.inl hres) n, memRead_of_reserved (.inr hres) n, memRead_of_busy hoff hbusy n]
  · exact memRead_of_malformed s hform

theorem issueCommand_eq_of_busErr {w : Word} (h : (s.issueCommand w).2 = .busErr) :
    s.issueCommand w = (s, .busErr) := by
  have hrefused := memWrite_offCmd_of_refused ((issueCommand_busErr_iff s w).1 h)
  rwa [memWrite_offCmd] at hrefused

/-- Besides the writes that `memWrite_cases` names as refused, only a command can be: the others are answered OK. -/
theorem memWrite_eq_of_busErr {off : BitVec 12} {n : Nat} {v : Word} (h : (s.memWrite off n v).2 = .busErr) :
    s.memWrite off n v = (s, .busErr) := by
  rcases memWrite_cases s off n v with heq | ⟨-, -, heq⟩ | ⟨-, -, heq⟩ | ⟨-, -, heq⟩ | ⟨-, i, -, -, heq⟩
    | ⟨-, i, -, -, heq⟩ | ⟨-, i, -, -, heq⟩
  · exact heq
  · rw [heq] at h ⊢
    exact issueCommand_eq_of_busErr h
  all_goals simp [heq] at h

theorem step_write {off : BitVec 12} {n : Nat} {v : Word} {rest : List Input} (h : s.inputs = .write off n v :: rest) :
    step s = .next (hostWrite off n v (s.begin rest)) := by
  rw [step, h]
  rfl

end

/-- Settles O45: a read answered BUSERR gives 0 and a write answered BUSERR leaves the state as it is. -/
theorem refusedAccessChangesNothing : Obligations.RefusedAccessChangesNothing := by
  refine ⟨fun s off n rest hin h => ?read, fun s off n v rest hin h => ?write⟩
  case read =>
    rw [step_read hin, hostRead, memRead_begin, memRead_eq_of_busErr h]
    rfl
  case write =>
    rw [step_write hin, hostWrite, memWrite_begin, memWrite_eq_of_busErr h]
    rfl

end Sys2Proof.Machine
end

section
/-! SUPPORT. The pending bits and the interrupt output (60_exceptions.md R181 to R185). -/

namespace Sys2Proof.Machine

/-! ### How an operation changes the pending bits -/

section
variable (p : BitVec 2)

theorem getLsbD_setDone : (setDone p).getLsbD 0 = true ∧ (setDone p).getLsbD 1 = p.getLsbD 1 := by
  simp [setDone]

theorem getLsbD_setErrp : (setErrp p).getLsbD 1 = true ∧ (setErrp p).getLsbD 0 = p.getLsbD 0 := by
  simp [setErrp]

variable {p} {i : Nat} (hset : p.getLsbD i = true)
include hset

theorem getLsbD_setDone_of_set : (setDone p).getLsbD i = true := by
  simp [setDone, hset]

theorem getLsbD_setErrp_of_set : (setErrp p).getLsbD i = true := by
  simp [setErrp, hset]

end

/-- Settles O51: a command that passes its check ends in `finishCommand`, whose pending bits are those of `setDone`, and
an error entry leaves those of `setErrp`. -/
theorem completionAndErrorSetPendingBits : Obligations.CompletionAndErrorSetPendingBits := by
  refine ⟨fun s t i hcheck hexec => ?completion, fun s e => getLsbD_setErrp s.irqPend⟩
  case completion =>
    rw [exec_of_check hcheck] at hexec
    obtain rfl := Host.Outcome.next.inj hexec
    rw [State.finishCommand_irqPend, effectOf_irqPend]
    exact getLsbD_setDone s.irqPend

/-! ### Who clears a pending bit (R184) -/

section
variable {s : State} {i : Nat} (hset : s.irqPend.getLsbD i = true)
include hset

/-- Neither a completion nor an error entry at the engine clears a pending bit. -/
theorem engineTurn_keeps_pending {t : State} (h : engineTurn s = .next t) : t.irqPend.getLsbD i = true := by
  rcases engineTurn_next h with ⟨-, rfl⟩ | ⟨-, j, -, -, rfl⟩ | ⟨-, e, -, -, rfl⟩
  · exact hset
  · rw [State.finishCommand_irqPend, effectOf_irqPend]
    exact getLsbD_setDone_of_set hset
  · exact getLsbD_setErrp_of_set hset

/-- Neither a new command nor its rejection clears a pending bit. -/
theorem issueCommand_keeps_pending (w : Word) : (s.issueCommand w).1.irqPend.getLsbD i = true := by
  rw [issueCommand_eq]
  split_ifs
  · exact hset
  · exact hset
  · exact hset
  · exact getLsbD_setErrp_of_set hset

/-- A host write that clears a pending bit writes a 1 to it at IRQ_PEND. -/
theorem memWrite_clears_pending {off : BitVec 12} {n : Nat} {v : Word}
    (h : (s.memWrite off n v).1.irqPend.getLsbD i = false) : n = 8 ∧ off = 0x028#12 ∧ v.getLsbD i = true := by
  rcases memWrite_cases s off n v with heq | ⟨-, -, heq⟩ | ⟨-, -, heq⟩ | ⟨hn, hoff, heq⟩ | ⟨-, j, -, -, heq⟩
    | ⟨-, j, -, -, heq⟩ | ⟨-, j, -, -, heq⟩
  case inr.inl => simp [heq, issueCommand_keeps_pending hset v] at h
  case inr.inr.inr.inl =>
    rw [heq, getLsbD_clearPend s.irqPend v (BitVec.lt_of_getLsbD hset)] at h
    exact ⟨hn, hoff, by simpa [hset] using h⟩
  all_goals simp [heq, hset] at h

end

/-- Settles O50: of all that a step can do only a host write and reset clear a pending bit, and the write is one to
IRQ_PEND. -/
theorem pendingBitsClearedOnlyByHostOrReset : Obligations.PendingBitsClearedOnlyByHostOrReset := by
  intro s t i hstep hset hclear
  rcases step_next hstep with ⟨-, hturn⟩ | ⟨off, n, rest, hin, rfl⟩ | ⟨off, n, v, rest, hin, rfl⟩ | ⟨rest, hin, rfl⟩
  · rw [engineTurn_keeps_pending (s := s.begin s.inputs.tail) hset hturn] at hclear
    contradiction
  · exact absurd hset (by simpa [hostRead] using hclear)
  · rw [hostWrite, memWrite_begin] at hclear
    obtain ⟨rfl, rfl, hbit⟩ := memWrite_clears_pending hset hclear
    exact .inr ⟨v, by rw [hin]; rfl, hbit⟩
  · exact .inl (by rw [hin]; rfl)

/-! ### The interrupt output (R185) -/

/-- Settles O52: `State.irq` is the rule's formula, and a write of IRQ_EN puts the written bits 0 and 1 into it. -/
theorem interruptLineFollowsRule : Obligations.InterruptLineFollowsRule := by
  refine ⟨fun s => rfl, fun s v => ?write⟩
  case write =>
    rw [memWrite_offIrqEn]
    simp [State.irq]

end Sys2Proof.Machine
end

section
/-! SUPPORT. Reset: the state a reset step answers, and the refusal of an access while reset is held
(70_reset_and_hazards.md R210, R211). -/

namespace Sys2Proof.Machine

@[simp] theorem getElem_zeroWords {n i : Nat} (hi : i < n) : (zeroWords n)[i] = 0#64 :=
  Vector.getElem_replicate hi

/-- No event is pending or enabled after reset (R185). -/
@[simp] theorem State.resetStep_irq (s : State) : s.resetStep.irq = false := by
  simp [State.irq]

section
variable {s : State} {rest : List Input}

theorem step_reset (h : s.inputs = .reset :: rest) : step s = .next (s.begin rest).resetStep := by
  rw [step, h]
  rfl

theorem step_accessInReset (h : s.inputs = .accessInReset :: rest) : step s = .refused .accessInReset := by
  rw [step, h]
  rfl

end

/-- Settles O13: whatever ran, the step answers `resetStep` of the state it began on, and the rules of `resetStep` give
each piece of it; an access while reset is held reaches the one refusal. -/
theorem resetStepClearsEverything : Obligations.ResetStepClearsEverything := by
  refine ⟨fun s rest hin => ⟨(s.begin rest).resetStep, step_reset hin, ?cleared⟩, fun s rest => step_accessInReset⟩
  case cleared =>
    simp [ErrCode.bits, EngineWork.zero]

end Sys2Proof.Machine
end

section
/-! SUPPORT. Encoding and decoding of command words: the round trip both ways, and which words decode to no command
(30_encoding.md R81 to R88). -/

namespace Sys2Proof.Machine

/-! ### Fields of a word -/

/-- Bits from `start` on agree exactly when the low ones and the high ones do. -/
theorem extractLsb'_eq_iff_split {n : Nat} (a b : BitVec n) (start low high : Nat) :
    a.extractLsb' start (high + low) = b.extractLsb' start (high + low) ↔
      a.extractLsb' start low = b.extractLsb' start low
        ∧ a.extractLsb' (start + low) high = b.extractLsb' (start + low) high := by
  rw [← BitVec.extractLsb'_append_extractLsb'_eq_extractLsb' (x := a) rfl,
    ← BitVec.extractLsb'_append_extractLsb'_eq_extractLsb' (x := b) rfl]
  constructor
  · intro h
    have hlow := congrArg (BitVec.extractLsb' 0 low) h
    have hhigh := congrArg (BitVec.extractLsb' low high) h
    simp only [BitVec.extractLsb'_append_eq_right, BitVec.extractLsb'_append_eq_left] at hlow hhigh
    exact ⟨hlow, hhigh⟩
  · rintro ⟨hlow, hhigh⟩
    rw [hlow, hhigh]

/-- A byte moved to bit `k` stands there. -/
theorem extractLsb'_setWidth_shiftLeft (b : BitVec 8) {k : Nat} (hk : k + 8 ≤ 64) :
    (b.setWidth 64 <<< k).extractLsb' k 8 = b := by
  refine BitVec.eq_of_getLsbD_eq fun i hi => ?_
  have h64 : k + i < 64 := by omega
  simp [hi, h64]

/-- Bits `k` to `k + 7` taken out of a word and put back are what the mask of these bits leaves of it. -/
theorem setWidth_extractLsb'_shiftLeft (w : Word) (k : Nat) :
    (w.extractLsb' k 8).setWidth 64 <<< k = w &&& (BitVec.allOnes 8).setWidth 64 <<< k := by
  refine BitVec.eq_of_getLsbD_eq fun i hi => ?_
  by_cases hk : i < k
  · simp [hk]
  · have hle : k + (i - k) = i := by omega
    by_cases h8 : i - k < 8 <;> simp [-BitVec.reduceAllOnes, hk, hi, h8, hle]

/-! ### The round trip (R85, R87, R88) -/

theorem wordMatchesRow (i : Instr) : Laws.WordMatchesRow.Statement i := by
  cases i with
  | init64 => exact Laws.WordMatchesRow.init64
  | initv nn => exact Laws.WordMatchesRow.initv nn
  | block => exact Laws.WordMatchesRow.block
  | last len => exact Laws.WordMatchesRow.last len
  | gcomp => exact Laws.WordMatchesRow.gcomp
  | zeroize => exact Laws.WordMatchesRow.zeroize
  | ack => exact Laws.WordMatchesRow.ack

/-- The match of LAST is 0 where LEN stands. -/
theorem lenField_encode_last (len : BitVec 8) : lenField (encode (.last len)) = len := by
  have hmatch : Opcode.last.matchWord.extractLsb' 16 8 = 0#8 := rfl
  calc lenField (encode (.last len))
      = Opcode.last.matchWord.extractLsb' 16 8 ||| (len.setWidth 64 <<< 16).extractLsb' 16 8 := BitVec.extractLsb'_or
    _ = len := by rw [hmatch, extractLsb'_setWidth_shiftLeft len (by decide), BitVec.zero_or]

/-- A row reads from the word of its command the fields that the command has. -/
theorem build_encode (i : Instr) : i.opcode.build (encode i) = i := by
  cases i with
  | initv nn => exact congrArg Instr.initv (nnField_encode_initv nn)
  | last len => exact congrArg Instr.last (lenField_encode_last len)
  | init64 | block | gcomp | zeroize | ack => rfl

theorem decode_encode (i : Instr) : decode (encode i) = .ok i := by
  obtain ⟨hop, hmask⟩ := wordMatchesRow i
  exact decode_eq_ok.2 ⟨hop, hmask, (build_encode i).symm⟩

theorem checkWord_encode (i : Instr) (s : State) : checkWord (encode i) s = checkInstr i s :=
  checkWord_ok s (decode_encode i)

/-- Settles O1: the word matches its row, and the row reads the command's fields back. -/
theorem encodedCommandDecodesBack : Obligations.EncodedCommandDecodesBack := decode_encode

/-- Settles O3: each word is the encoding of its command. -/
theorem rowWordsDecode : Obligations.RowWordsDecode :=
  ⟨decode_encode .init64, decode_encode (.initv 32#8), decode_encode .block, decode_encode (.last 3#8),
    decode_encode .gcomp, decode_encode .zeroize, decode_encode .ack⟩

/-- The fields that a row reads are the bits outside its mask. -/
theorem fieldBits_build (o : Opcode) (w : Word) : (o.build w).fieldBits = w &&& ~~~o.maskWord := by
  cases o with
  | initv => exact setWidth_extractLsb'_shiftLeft w 8
  | last => exact setWidth_extractLsb'_shiftLeft w 16
  | init64 | block | gcomp | zeroize | ack => exact (BitVec.and_zero (x := w)).symm

/-- Settles O2: the match gives the bits under the row's mask and the fields give the others. -/
theorem decodedWordIsItsEncoding : Obligations.DecodedWordIsItsEncoding := by
  intro w i h
  obtain ⟨-, hmatch, hbuild⟩ := decode_eq_ok.1 h
  calc encode i
      = i.opcode.matchWord ||| (i.opcode.build w).fieldBits := by rw [← hbuild, encode]
    _ = (w &&& i.opcode.maskWord) ||| (w &&& ~~~i.opcode.maskWord) := by rw [hmatch, fieldBits_build]
    _ = w := by rw [← BitVec.and_or_distrib_left, BitVec.or_not_self, BitVec.and_allOnes]

/-! ### The words that decode to no command (R82, R83, R86) -/

section
variable {w : Word}

theorem decode_of_no_row (h : ¬∃ o : Opcode, opField w = o.byte) : decode w = .error .badOpcode := by
  have hnone : opcodeOfByte (opField w) = none :=
    Option.eq_none_iff_forall_ne_some.2 fun o ho => h ⟨o, opcodeOfByte_eq_some.1 ho⟩
  rw [decode, hnone]

variable {o : Opcode} (hop : opField w = o.byte)
include hop

theorem decode_of_row : decode w =
    if w &&& o.maskWord = o.matchWord then .ok (o.build w) else .error .reservedBits := by
  rw [decode, opcodeOfByte_eq_some.2 hop]

theorem decode_ne_badOpcode_of_row : decode w ≠ .error .badOpcode := by
  rw [decode_of_row hop]
  split_ifs <;> simp

/-- A row's mask takes the whole of OP, and its match is 0 above OP; so the reserved bits stand above OP in the mask. -/
theorem decode_eq_reservedBits_iff_of_row : decode w = .error .reservedBits ↔
    w.extractLsb' 8 56 &&& o.maskWord.extractLsb' 8 56 ≠ 0#56 := by
  have hmask : o.maskWord.extractLsb' 0 8 = BitVec.allOnes 8 := by cases o <;> rfl
  have hlow : o.matchWord.extractLsb' 0 8 = o.byte := by cases o <;> rfl
  have hhigh : o.matchWord.extractLsb' 8 56 = 0#56 := by cases o <;> rfl
  have hmatch : w &&& o.maskWord = o.matchWord ↔ w.extractLsb' 8 56 &&& o.maskWord.extractLsb' 8 56 = 0#56 := by
    have hsplit := extractLsb'_eq_iff_split (w &&& o.maskWord) o.matchWord 0 8 56
    rw [opField] at hop
    simpa [-BitVec.reduceAllOnes, BitVec.extractLsb'_and, hmask, hlow, hhigh, hop] using hsplit
  rw [decode_of_row hop, ne_eq, ← hmatch]
  split_ifs with h <;> simp [h]

end

/-- Of bits 63:8 the mask of INITV leaves out NN. -/
theorem initv_reserved_iff (w : Word) :
    w.extractLsb' 8 56 &&& Opcode.initv.maskWord.extractLsb' 8 56 = 0#56 ↔ w.extractLsb' 16 48 = 0#48 := by
  have hnn : Opcode.initv.maskWord.extractLsb' 8 8 = 0#8 := rfl
  have hhigh : Opcode.initv.maskWord.extractLsb' 16 48 = BitVec.allOnes 48 := rfl
  have hzero {start len : Nat} : (0#64).extractLsb' start len = 0#len := BitVec.extractLsb'_zero
  rw [← BitVec.extractLsb'_and, ← hzero (start := 8), extractLsb'_eq_iff_split _ _ 8 8 48]
  simp only [BitVec.extractLsb'_and, hnn, hhigh, hzero, BitVec.and_allOnes, BitVec.and_zero, true_and]

/-- Of bits 63:8 the mask of LAST leaves out LEN. -/
theorem last_reserved_iff (w : Word) :
    w.extractLsb' 8 56 &&& Opcode.last.maskWord.extractLsb' 8 56 = 0#56 ↔
      w.extractLsb' 8 8 = 0#8 ∧ w.extractLsb' 24 40 = 0#40 := by
  have hnn : Opcode.last.maskWord.extractLsb' 8 8 = BitVec.allOnes 8 := rfl
  have hlen : Opcode.last.maskWord.extractLsb' 16 8 = 0#8 := rfl
  have hhigh : Opcode.last.maskWord.extractLsb' 24 40 = BitVec.allOnes 40 := rfl
  have hzero {start len : Nat} : (0#64).extractLsb' start len = 0#len := BitVec.extractLsb'_zero
  rw [← BitVec.extractLsb'_and, ← hzero (start := 8), extractLsb'_eq_iff_split _ _ 8 8 48,
    extractLsb'_eq_iff_split _ _ 16 8 40]
  simp only [BitVec.extractLsb'_and, hnn, hlen, hhigh, hzero, BitVec.and_allOnes, BitVec.and_zero, true_and]

/-- Settles O4: a word has a row or none, and in a row the reserved bits are those of the row's mask. -/
theorem decoderRejectsByReservedBitsAndOpcode : Obligations.DecoderRejectsByReservedBitsAndOpcode := by
  intro w
  rw [mem_opcodeBytes_iff]
  by_cases hrow : ∃ o : Opcode, opField w = o.byte
  · obtain ⟨o, hop⟩ := hrow
    refine ⟨iff_of_false (decode_ne_badOpcode_of_row hop) (not_not.2 ⟨o, hop⟩), ?_⟩
    rw [decode_eq_reservedBits_iff_of_row hop]
    have hbyte : w.extractLsb' 0 8 = o.byte := hop
    cases o with
    | init64 | block | gcomp | zeroize | ack =>
      have hmask : (0xFFFFFFFFFFFFFFFF#64).extractLsb' 8 56 = BitVec.allOnes 56 := rfl
      simp [-BitVec.reduceAllOnes, -BitVec.reduceExtractLsb', hbyte, Opcode.byte, Opcode.maskWord, hmask]
    | initv => simp [hbyte, Opcode.byte, initv_reserved_iff]
    | last => simp [hbyte, Opcode.byte, last_reserved_iff, imp_iff_not_or]
  · refine ⟨iff_of_true (decode_of_no_row hrow) hrow, ?_⟩
    rw [decode_of_no_row hrow]
    refine iff_of_false (by simp) ?_
    rintro (⟨hmem, -⟩ | ⟨hinitv, -⟩ | ⟨hlast, -⟩)
    · have hsub : [0x01#8, 0x03#8, 0x08#8, 0x0E#8, 0x0F#8] ⊆
          [0x01#8, 0x02#8, 0x03#8, 0x04#8, 0x08#8, 0x0E#8, 0x0F#8] := by decide
      exact hrow (mem_opcodeBytes_iff.1 (hsub hmem))
    · exact hrow ⟨.initv, hinitv⟩
    · exact hrow ⟨.last, hlast⟩

end Sys2Proof.Machine
end

section
/-! SUPPORT. The commands as `exec` carries them out: BLOCK, LAST and GCOMP in full, INIT64 as INITV 64, the empty
message, and a command that its check turns away (40_blake2b.md R107 to R115, 41_gcomp.md R146, 60_exceptions.md R172). -/

namespace Sys2Proof.Machine

/-! ### What a completed command answers, written out -/

section
variable {s : State}

theorem exec_block_of_check (h : checkInstr .block s = .eNone) : exec .block s = .next
    { s with
      t := s.t + 128#64
      h := compress s.h s.m (s.t + 128#64) false
      busy := false
      cur := 0#64
      irqPend := s.irqPend ||| 1#2
      work := { s.work with v := workRounds s.h s.m (s.t + 128#64) false, progress := 0 } } := by
  simp only [exec_of_check h, effectOf, State.finishCommand, blockEffect, setDone]

theorem exec_last_of_check {len : BitVec 8} (h : checkInstr (.last len) s = .eNone) : exec (.last len) s = .next
    { s with
      t := s.t + len.setWidth 64
      h := compress s.h (pad s.m len.toNat) (s.t + len.setWidth 64) true
      hstate := .final
      busy := false
      cur := 0#64
      irqPend := s.irqPend ||| 1#2
      work := { s.work with
        v := workRounds s.h (pad s.m len.toNat) (s.t + len.setWidth 64) true, progress := 0 } } := by
  simp only [exec_of_check h, effectOf, State.finishCommand, lastEffect, setDone]

theorem exec_gcomp (s : State) : exec .gcomp s = .next
    { s with
      r := gFun s.x s.y
      busy := false
      cur := 0#64
      irqPend := s.irqPend ||| 1#2
      work := { s.work with q := permBlock (xorBlock s.x s.y), progress := 0 } } := by
  simp only [exec_of_check (checkInstr_gcomp s), effectOf, State.finishCommand, gcompEffect, setDone]

end

/-! ### BLOCK (R112) -/

/-- Settles O16: the check of BLOCK fails on HSTATE, then on T, and else `exec` is `blockEffect` and the completion. -/
theorem blockCompressesFullBlock : Obligations.BlockCompressesFullBlock := by
  refine ⟨rfl, fun s w hop hres => checkWord_of_reserved .block s hop rfl rfl hres,
    fun s hstate => checkInstr_block_of_sequence hstate, fun s hstate hcount => ?overflow,
    fun s hstate hcount => ⟨_, _, exec_block_of_check (checkInstr_block.2 ⟨hstate, hcount⟩)⟩⟩
  case overflow => exact checkInstr_block_of_overflow hstate (by omega)

/-! ### LAST (R107, R113) -/

/-- Bits 15:8 and bits 63:24 of LAST are reserved. -/
theorem checkWord_of_reserved_last {w : Word} (s : State) (hop : opField w = 0x04#8)
    (hres : w.extractLsb' 8 8 ≠ 0#8 ∨ w.extractLsb' 24 40 ≠ 0#40) : checkWord w s = .eRsvd := by
  rcases hres with hlow | hhigh
  · exact checkWord_of_reserved .last s hop rfl rfl hlow
  · exact checkWord_of_reserved .last s hop rfl rfl hhigh

/-- Settles O17: the check of LAST fails on LEN, on HSTATE or an empty block after others, then on T, and else `exec` is
`lastEffect` and the completion. -/
theorem lastCompressesFinalBlock : Obligations.LastCompressesFinalBlock := by
  refine ⟨fun len => ?word, fun s w hop hres => checkWord_of_reserved_last s hop hres, fun s len hlen => ?length,
    fun s len hlen hseq => ?sequence, fun s len hlen hstate hcount => ?overflow,
    fun s len hlen hstate hempty hcount =>
      ⟨_, _, exec_last_of_check (checkInstr_last.2 ⟨hlen, hstate, hempty, hcount⟩)⟩⟩
  case word =>
    rw [BitVec.or_comm]
    exact decode_encode (.last len)
  case length => rw [checkWord_encode, checkInstr_last_of_illegal hlen]
  case sequence => rw [checkWord_encode, checkInstr_last_of_sequence (Nat.not_lt.2 hlen) hseq]
  case overflow =>
    have hseq : ¬(s.hstate ≠ .absorb ∨ len = 0#8 ∧ s.t ≠ 0#64) := by
      rintro (hne | ⟨rfl, -⟩)
      · exact hne hstate
      · exact absurd hcount (Nat.not_lt.2 (Nat.le_sub_one_of_lt s.t.isLt))
    rw [checkWord_encode, checkInstr_last_of_overflow (Nat.not_lt.2 hlen) hseq (by omega)]

/-- No byte of the message is kept by PAD(M, 0). -/
theorem pad_zero (m : Words 16) : pad m 0 = zeroWords 16 :=
  words_eq_of_bytes fun i k => by
    rw [byteOf_pad, if_neg (Nat.not_lt_zero _)]
    simp

/-- Settles O24: the check does not look at M, and PAD sees only the bytes below `len`. -/
theorem lastIgnoresBytesFromLenOn : Obligations.LastIgnoresBytesFromLenOn := by
  intro s m' len t t' hbytes hexec hexec'
  have hcheck : checkInstr (.last len) { s with m := m' } = checkInstr (.last len) s := checkInstr_congr rfl rfl
  by_cases hpass : checkInstr (.last len) s = .eNone
  · rw [exec_of_check hpass] at hexec
    rw [exec_of_check (hcheck.trans hpass)] at hexec'
    obtain rfl := Host.Outcome.next.inj hexec
    obtain rfl := Host.Outcome.next.inj hexec'
    obtain ⟨hlen, -⟩ := checkInstr_last.1 hpass
    have hpad : pad m' len.toNat = pad s.m len.toNat := paddingZeroesBytesFromLenOn.2 s.m m' len.toNat hlen hbytes
    simp [effectOf, hpad]
  · rw [exec_of_reject hpass] at hexec
    rw [exec_of_reject (hcheck.trans_ne hpass)] at hexec'
    obtain rfl := Host.Outcome.next.inj hexec
    obtain rfl := Host.Outcome.next.inj hexec'
    simp

/-! ### The start of a hash and the empty message (R109, R115) -/

/-- Settles O21: the byte 64 passes the check of INITV and is the NN that INIT64 takes. -/
theorem initvSixtyFourIsInit64 : Obligations.InitvSixtyFourIsInit64 := by
  intro s
  have hcheck : checkInstr (.initv 64#8) s = .eNone := checkInstr_initv.2 (by decide)
  have hinit64 := exec_of_check (checkInstr_init64 s)
  exact ⟨(exec_of_check hcheck).trans hinit64.symm, _, hinit64, rfl, rfl, rfl, rfl⟩

/-- Settles O22: INITV leaves ABSORB with T = 0, where LAST 0 passes its check and pads M to the zero block. -/
theorem emptyMessageCompressesZeroBlock : Obligations.EmptyMessageCompressesZeroBlock := by
  intro s nn hpos hle
  have hinitv := exec_of_check (checkInstr_initv (s := s).2 ⟨hpos, hle⟩)
  have hcheck : checkInstr (.last 0#8) (effectOf (.initv nn) s).finishCommand = .eNone :=
    checkInstr_last.2 ⟨by decide, rfl, fun _ => rfl, Nat.zero_le _⟩
  refine ⟨_, _, hinitv, exec_of_check hcheck, ?_, rfl, rfl, rfl⟩
  simp [effectOf, pad_zero, zeroWords]

/-! ### GCOMP (R146) -/

/-- Settles O18: GCOMP has no check but for its reserved bits, so `exec` is `gcompEffect` and the completion. -/
theorem gcompComputesBlockCompression : Obligations.GcompComputesBlockCompression := fun s =>
  ⟨rfl, rfl, fun _ hop hres => checkWord_of_reserved .gcomp s hop rfl rfl hres, ⟨_, _, exec_gcomp s⟩,
    fun hxy => hxy ▸ gFun_self s.x⟩

/-! ### A command that its check turns away (R172) -/

/-- Settles O23: a failing check leads to `rejectRunning` alone. -/
theorem rejectedCommandHasNoEffect : Obligations.RejectedCommandHasNoEffect := by
  intro s i hcheck
  refine ⟨0, (exec_of_reject hcheck).trans ?_⟩
  cases herr : s.err <;> simp [State.rejectRunning, State.raiseCmdError, herr, setErrp]

end Sys2Proof.Machine
end

section
/-! SUPPORT. The window byte by byte under a command, a buffer word after a write, the addresses that reach the window,
and the rotation of a word (10_state.md R34 to R36, 20_memory.md R51, R60, 00_scope.md R9). -/

namespace Sys2Proof.Machine

/-! ### Rotation (R9) -/

/-- Settles O34: below bit 64 - n the right shift gives the bit, from there on the left shift does. -/
theorem rotationMovesBits : Obligations.RotationMovesBits := by
  intro x n i hpos hle hi
  rw [rotr, BitVec.getLsbD_or, BitVec.getLsbD_ushiftRight, BitVec.getLsbD_shiftLeft]
  by_cases hlow : i < 64 - n
  · have hmod : (i + n) % 64 = n + i := by omega
    simp [hlow, hmod]
  · have hmod : (i + n) % 64 = i - (64 - n) := by omega
    have hout : 64 ≤ n + i := by omega
    simp [hlow, hmod, hi, BitVec.getLsbD_of_ge x (n + i) hout]

/-! ### Which addresses reach the window (R51) -/

/-- Settles O46: an offset of the window has 12 bits, so 4096 addresses from BASE on have one each. -/
theorem windowDecodesItsAddresses : Obligations.WindowDecodesItsAddresses := by
  intro p a off
  have hoff : off.toNat < 4096 := off.isLt
  rw [windowOffset]
  by_cases hin : p.base ≤ a ∧ a < p.base + 4096
  · have hmod : (a - p.base) % 2 ^ 12 = a - p.base := Nat.mod_eq_of_lt (by omega)
    rw [if_pos hin, Option.some.injEq, ← BitVec.toNat_inj, BitVec.toNat_ofNat, hmod]
    exact ⟨fun h => ⟨hin.1, hin.2, h.symm⟩, fun h => h.2.2.symm⟩
  · simp only [if_neg hin, reduceCtorEq, false_iff]
    exact fun h => hin ⟨h.1, h.2.1⟩

/-! ### The bytes of the buffers under a command -/

section
variable {s t : State} {off : BitVec 12}

theorem windowByte_of_dig {i : Fin 8} (h : regAt off = .dig i) :
    s.windowByte off = byteOf (s.dig i) (off.toNat % 8) := by
  rw [State.windowByte, h]
  rfl

/-- A byte from 0x080 on depends on the buffer that it stands in, and on no other state. -/
theorem windowByte_congr (hoff : 0x080 ≤ off.toNat) (hm : t.m = s.m) (hx : t.x = s.x) (hy : t.y = s.y)
    (hdig : 0x100 ≤ off.toNat → off.toNat < 0x140 → t.dig = s.dig) (hr : 0xC00 ≤ off.toNat → t.r = s.r) :
    t.windowByte off = s.windowByte off := by
  rcases regAt_ranges off with ⟨hlt, -⟩ | ⟨-, hlt, -⟩ | ⟨-, hlt, -⟩ | ⟨-, hlt, -⟩ | ⟨-, hlt, -⟩ | ⟨-, hlt, -⟩
    | ⟨-, hlt, -⟩ | ⟨i, -, h⟩ | ⟨i, hi, h⟩ | ⟨-, -, h⟩ | ⟨i, -, h⟩ | ⟨i, -, h⟩ | ⟨i, hi, h⟩
  iterate 7 omega
  · simp [State.windowByte, h, State.readReg, hm]
  · rw [windowByte_of_dig h, windowByte_of_dig h, hdig (by omega) (by omega)]
  · simp [State.windowByte, h, State.readReg]
  · simp [State.windowByte, h, State.readReg, hx]
  · simp [State.windowByte, h, State.readReg, hy]
  · simp [State.windowByte, h, State.readReg, hr (by omega)]

/-- DIG is a view of HSTATE, NN and H (10_state.md R33). -/
theorem dig_congr (hhstate : t.hstate = s.hstate) (hnn : t.nn = s.nn) (hh : t.h = s.h) : t.dig = s.dig := by
  funext i
  unfold State.dig
  rw [hhstate, hnn, hh]

/-- An offset in R names a byte of a word of R. -/
theorem regAt_result_byte (i : Fin 128) (k : Fin 8) :
    regAt (BitVec.ofNat 12 (0xC00 + 8 * i.val + k.val)) = .r i := by
  have hoff : (BitVec.ofNat 12 (0xC00 + 8 * i.val + k.val)).toNat = 0xC00 + 8 * i.val + k.val :=
    Nat.mod_eq_of_lt (by omega)
  rcases regAt_ranges (BitVec.ofNat 12 (0xC00 + 8 * i.val + k.val)) with ⟨hlt, -⟩ | ⟨-, hlt, -⟩ | ⟨-, hlt, -⟩
    | ⟨-, hlt, -⟩ | ⟨-, hlt, -⟩ | ⟨-, hlt, -⟩ | ⟨-, hlt, -⟩ | ⟨j, hj, -⟩ | ⟨j, hj, -⟩ | ⟨-, hlt, -⟩ | ⟨j, hj, -⟩
    | ⟨j, hj, -⟩ | ⟨j, hj, h⟩
  iterate 12 omega
  have hij : j = i := by omega
  rw [h, hij]

end

section
variable {i : Instr} (s : State)

/-- Of the buffers GCOMP writes R, ZEROIZE writes all, and no other command writes one. -/
theorem effectOf_buffers (hgcomp : i ≠ .gcomp) (hzeroize : i ≠ .zeroize) :
    (effectOf i s).m = s.m ∧ (effectOf i s).x = s.x ∧ (effectOf i s).y = s.y ∧ (effectOf i s).r = s.r
      ∧ (effectOf i s).work.q = s.work.q := by
  cases i with
  | gcomp => exact absurd rfl hgcomp
  | zeroize => exact absurd rfl hzeroize
  | init64 | initv | block | last | ack => simp [effectOf]

theorem effectOf_work_v (hblock : i ≠ .block) (hlast : ∀ len, i ≠ .last len) (hzeroize : i ≠ .zeroize) :
    (effectOf i s).work.v = s.work.v := by
  cases i with
  | block => exact absurd rfl hblock
  | last len => exact absurd rfl (hlast len)
  | zeroize => exact absurd rfl hzeroize
  | init64 | initv | gcomp | ack => simp [effectOf]

end

/-- Settles O25: a completion keeps what the effect keeps, and a rejection keeps all these fields. -/
theorem hashCommandsLeaveBuffersUnchanged : Obligations.HashCommandsLeaveBuffersUnchanged := by
  intro i s t hgcomp hzeroize hexec
  rcases exec_next hexec with ⟨-, rfl⟩ | ⟨-, rfl⟩
  · obtain ⟨hm, hx, hy, hr, hq⟩ := effectOf_buffers s hgcomp hzeroize
    refine ⟨fun off hoff => ?buffers, ?ack, effectOf_irqEn i s, effectOf_inputs i s, effectOf_resp i s,
      effectOf_freeCount i s, hq, fun hblock hlast => effectOf_work_v s hblock hlast hzeroize⟩
    case buffers => exact windowByte_congr (by omega) hm hx hy (fun _ _ => by omega) fun _ => hr
    case ack =>
      rintro rfl off hoff
      exact windowByte_congr hoff hm hx hy (fun _ _ => dig_congr rfl rfl rfl) fun _ => hr
  · have hall (off : BitVec 12) (hoff : 0x080 ≤ off.toNat) :
        (s.rejectRunning (checkInstr i s)).windowByte off = s.windowByte off :=
      windowByte_congr hoff rfl rfl rfl (fun _ _ => dig_congr rfl rfl rfl) fun _ => rfl
    exact ⟨fun off hoff => hall off (by omega), fun _ => hall, rfl, rfl, rfl, rfl, rfl, fun _ _ => rfl⟩

/-- Settles O26: the offset 0xC00 + 8i + k names byte k of word i of R, and below 0xC00 stands no byte of R. -/
theorem gcompStoresOnlyResultBytes : Obligations.GcompStoresOnlyResultBytes := by
  intro s t hexec
  rw [exec_gcomp] at hexec
  obtain rfl := Host.Outcome.next.inj hexec
  refine ⟨fun i k => ?result, fun off hge hlt => ?others, rfl, rfl, rfl, rfl⟩
  case result =>
    have hbyte : (BitVec.ofNat 12 (0xC00 + 8 * i.val + k.val)).toNat % 8 = k.val := by
      rw [BitVec.toNat_ofNat]
      omega
    rw [State.windowByte, regAt_result_byte, hbyte]
    rfl
  case others => exact windowByte_congr hge rfl rfl rfl (fun _ _ => dig_congr rfl rfl rfl) fun hr => by omega

/-- Settles O27: every buffer is zero, and so is DIG in IDLE. -/
theorem zeroizedWindowReadsZero : Obligations.ZeroizedWindowReadsZero := by
  intro s t hexec off hoff
  rw [exec_of_check (checkInstr_zeroize s)] at hexec
  obtain rfl := Host.Outcome.next.inj hexec
  unfold State.windowByte
  rcases regAt_of_ge hoff with h | ⟨i, h⟩ | ⟨i, h⟩ | ⟨i, h⟩ | ⟨i, h⟩ | ⟨i, h⟩ <;>
    simp [h, State.readReg, effectOf, State.dig]

/-! ### A written word reads back (R60) -/

/-- The offset of the first byte of a register (R54); a reserved offset has none of its own. -/
def Reg.firstByte : Reg → Nat
  | .id => 0x000
  | .cmd => 0x008
  | .status => 0x010
  | .count => 0x018
  | .irqEn => 0x020
  | .irqPend => 0x028
  | .m i => 0x080 + 8 * i.val
  | .dig i => 0x100 + 8 * i.val
  | .x i => 0x400 + 8 * i.val
  | .y i => 0x800 + 8 * i.val
  | .r i => 0xC00 + 8 * i.val
  | .reserved => 0

section
variable {off off' : BitVec 12}

theorem toNat_eq_firstByte (haligned : off.toNat % 8 = 0) (hreg : regAt off ≠ .reserved) :
    off.toNat = (regAt off).firstByte := by
  rcases regAt_ranges off with ⟨hlt, h⟩ | ⟨hge, hlt, h⟩ | ⟨hge, hlt, h⟩ | ⟨hge, hlt, h⟩ | ⟨hge, hlt, h⟩
    | ⟨hge, hlt, h⟩ | ⟨hge, hlt, h⟩ | ⟨i, hi, h⟩ | ⟨i, hi, h⟩ | ⟨hge, hlt, h⟩ | ⟨i, hi, h⟩ | ⟨i, hi, h⟩ | ⟨i, hi, h⟩
  iterate 6 · rw [h, Reg.firstByte]; omega
  · exact absurd h hreg
  iterate 2 · rw [h, Reg.firstByte]; omega
  · exact absurd h hreg
  iterate 3 · rw [h, Reg.firstByte]; omega

/-- Two aligned offsets that name the same register are equal. -/
theorem eq_of_regAt_eq (haligned : off.toNat % 8 = 0) (haligned' : off'.toNat % 8 = 0) (hreg : regAt off ≠ .reserved)
    (h : regAt off' = regAt off) : off' = off := by
  apply BitVec.eq_of_toNat_eq
  rw [toNat_eq_firstByte haligned hreg, toNat_eq_firstByte haligned' (h ▸ hreg), h]

/-- Where two states read alike at every register but that at `off`, the port reads alike at every other offset. -/
theorem memRead_congr_of_ne {s t : State} (hform : accessFormOk off 8 = true) (hreg : regAt off ≠ .reserved)
    (h : ∀ g, g ≠ regAt off → t.readReg g = s.readReg g) (hne : off' ≠ off) : t.memRead off' 8 = s.memRead off' 8 := by
  unfold State.memRead
  by_cases hform' : accessFormOk off' 8 = true
  · rw [if_pos hform', if_pos hform']
    have haligned := ((accessFormOk_iff off 8).1 hform).2
    have haligned' := ((accessFormOk_iff off' 8).1 hform').2
    exact h _ fun heq => hne (eq_of_regAt_eq haligned haligned' hreg heq)
  · rw [if_neg hform', if_neg hform']

end

/-- An accepted write to a word of a buffer sets that word and no other register. -/
theorem readReg_writeReg_of_buffer {s : State} {g : Reg} {v : Word} (hbuffer : 0x080 ≤ g.firstByte)
    (hok : (s.writeReg g v).2 = .ok) :
    (s.writeReg g v).1.readReg g = (.ok, v) ∧ ∀ g', g' ≠ g → (s.writeReg g v).1.readReg g' = s.readReg g' := by
  cases g with
  | id | cmd | status | count | irqEn | irqPend | reserved => simp [Reg.firstByte] at hbuffer
  | dig | r => simp [State.writeReg] at hok
  | m i | x i | y i =>
    by_cases hbusy : s.busy = true
    · simp [State.writeReg, hbusy] at hok
    · simp only [State.writeReg, if_neg hbusy]
      refine ⟨by simp [State.readReg, hbusy], fun g' hne => ?_⟩
      cases g' with
      | m j | x j | y j => simp_all [State.readReg, words_set, -Fin.getElem_fin]
      | _ => rfl

/-- Settles O43: an accepted write sets the register of its offset alone, and two offsets that the port serves share no
register. -/
theorem writtenBufferWordReadsBack : Obligations.WrittenBufferWordReadsBack := by
  intro s off v hok hoff
  by_cases hform : accessFormOk off 8 = true
  · rw [memWrite_of_accessFormOk hform] at hok ⊢
    have hreg : regAt off ≠ .reserved := fun h => by simp [h, State.writeReg] at hok
    rw [toNat_eq_firstByte ((accessFormOk_iff off 8).1 hform).2 hreg] at hoff
    obtain ⟨hsame, hother⟩ := readReg_writeReg_of_buffer hoff hok
    exact ⟨(memRead_of_accessFormOk hform).trans hsame, fun off' hne => memRead_congr_of_ne hform hreg hother hne⟩
  · simp [State.memWrite, hform] at hok

end Sys2Proof.Machine
end

section
/-! SUPPORT. What one step does: the engine's turn, host accesses before and while a command runs, and that nothing but
an access during reset is refused (60_exceptions.md R171 to R174, 20_memory.md R59, R61, R64). -/

namespace Sys2Proof.Machine

/-! ### The engine's turn -/

section
variable {s : State}

theorem engineTurn_of_idle (hidle : s.busy = false) : engineTurn s = .next s := by
  simp [engineTurn, hidle]

theorem engineTurn_of_decode {i : Instr} (hbusy : s.busy = true) (hdecode : decode s.cur = .ok i) :
    engineTurn s = exec i s := by
  simp [engineTurn, hbusy, hdecode]

theorem engineTurn_of_decode_error {e : DecodeError} (hbusy : s.busy = true) (hdecode : decode s.cur = .error e) :
    engineTurn s = .next (s.rejectRunning (decodeErrCode e)) := by
  simp [engineTurn, hbusy, hdecode]

end

/-- Settles O9: the engine's turn on the state that the step begins on. -/
theorem stepRunsLatchedCommand : Obligations.StepRunsLatchedCommand := fun s _ hbusy hnext hdecode =>
  (step_of_engineNext hnext).trans (engineTurn_of_decode (s := s.begin s.inputs.tail) hbusy hdecode)

/-- Settles O12: the engine's turn finds no command running. -/
theorem idleEngineTurnChangesNothing : Obligations.IdleEngineTurnChangesNothing := fun s hidle hnext =>
  (step_of_engineNext hnext).trans (engineTurn_of_idle (s := s.begin s.inputs.tail) hidle)

theorem decode_of_decodeTableWord {n w : Nat} {i : Instr} (h : decodeTableWord n w = some i) :
    decode (BitVec.ofNat 64 (w % 2 ^ n)) = .ok i := by
  unfold decodeTableWord at h
  split_ifs at h
  cases hdecode : decode (BitVec.ofNat 64 (w % 2 ^ n)) with
  | ok j =>
    rw [hdecode] at h
    exact congrArg Except.ok (Option.some.inj h)
  | error e => simp [hdecode] at h

/-- Settles O11: the placed word is latched, and the engine's turn is first in the order. -/
theorem placedWordRunsNext : Obligations.PlacedWordRunsNext := fun s n w _ h =>
  stepRunsLatchedCommand (s.withFetchWord n w) _ rfl rfl (decode_of_decodeTableWord h)

/-! ### Host accesses -/

/-- Settles O10: an access does not depend on the order of inputs or on the last answer, so it may be made before the
input is taken. -/
theorem stepPerformsHostAccess : Obligations.StepPerformsHostAccess := by
  refine ⟨fun s off n rest hin => ?read, fun s off n v rest hin => ?write⟩
  case read =>
    rw [step_read hin, hostRead, memRead_begin]
    rfl
  case write =>
    rw [step_write hin, hostWrite, memWrite_begin]
    rfl

/-- Settles O8: ZEROIZE and ACK get to their check while an error is recorded, and it never fails. -/
theorem recoveryCommandsAcceptedInErrorState : Obligations.RecoveryCommandsAcceptedInErrorState := by
  rintro s w (rfl | rfl) hidle -
  · obtain ⟨-, -, -, haccept⟩ := commandWriteFollowsIssueRule s 0x0E#64
    exact haccept hidle (.inr (.inl rfl)) rfl
  · obtain ⟨-, -, -, haccept⟩ := commandWriteFollowsIssueRule s 0x0F#64
    exact haccept hidle (.inr (.inr rfl)) rfl

/-- While a command runs a host write reaches the interrupt registers alone (R59, R64). -/
theorem memWrite_of_running {s : State} (hbusy : s.busy = true) (off : BitVec 12) (n : Nat) (v : Word) :
    { (s.memWrite off n v).1 with inputs := s.inputs, resp := s.resp, irqEn := s.irqEn, irqPend := s.irqPend } = s := by
  rcases memWrite_cases s off n v with heq | ⟨-, -, heq⟩ | ⟨-, -, heq⟩ | ⟨-, -, heq⟩ | ⟨hidle, -⟩ | ⟨hidle, -⟩
    | ⟨hidle, -⟩
  case inr.inl => rw [heq, issueCommand_eq, if_pos hbusy]
  iterate 3 rw [heq]
  all_goals simp [hidle] at hbusy

/-- Settles O47: a read changes nothing, and a write reaches the interrupt registers alone. -/
theorem hostCannotTouchRunningCommand : Obligations.HostCannotTouchRunningCommand := by
  intro s t a rest hbusy hin hhost hstep
  cases a with
  | read off n =>
    rw [stepPerformsHostAccess.1 s off n rest hin] at hstep
    obtain rfl := Host.Outcome.next.inj hstep
    rfl
  | write off n v =>
    rw [stepPerformsHostAccess.2 s off n v rest hin] at hstep
    obtain rfl := Host.Outcome.next.inj hstep
    exact memWrite_of_running hbusy off n v
  | engine | reset | accessInReset => simp [Input.isHost] at hhost

/-! ### Every step but one answers a next state -/

theorem exec_answers (i : Instr) (s : State) : ∃ t, exec i s = .next t := by
  by_cases hcheck : checkInstr i s = .eNone
  · exact ⟨_, exec_of_check hcheck⟩
  · exact ⟨_, exec_of_reject hcheck⟩

theorem engineTurn_answers (s : State) : ∃ t, engineTurn s = .next t := by
  cases hbusy : s.busy with
  | false => exact ⟨s, engineTurn_of_idle hbusy⟩
  | true =>
    cases hdecode : decode s.cur with
    | ok i =>
      rw [engineTurn_of_decode hbusy hdecode]
      exact exec_answers i s
    | error e => exact ⟨_, engineTurn_of_decode_error hbusy hdecode⟩

/-- Settles O58: each kind of input but an access during reset has its next state, and so has the engine's turn. -/
theorem stepStopsOnlyOnAccessInReset : Obligations.StepStopsOnlyOnAccessInReset := by
  refine ⟨fun s i => exec_answers i s, fun s hin => ?step⟩
  case step =>
    unfold step
    rcases hinputs : s.inputs with _ | ⟨a, rest⟩
    · exact engineTurn_answers (s.begin [])
    · cases a with
      | read off n => exact ⟨_, rfl⟩
      | write off n v => exact ⟨_, rfl⟩
      | engine => exact engineTurn_answers (s.begin rest)
      | reset => exact ⟨_, rfl⟩
      | accessInReset => simp [hinputs] at hin

/-! ### The cases of a step -/

/-- What one step from `s` can be, with the state that it answers. -/
inductive StepCase (s : State) : State → Prop
  | idle (hnext : s.engineNext = true) (hidle : s.busy = false) : StepCase s (s.begin s.inputs.tail)
  | completes (i : Instr) (hnext : s.engineNext = true) (hbusy : s.busy = true) (hdecode : decode s.cur = .ok i)
      (hcheck : checkInstr i s = .eNone) : StepCase s (effectOf i (s.begin s.inputs.tail)).finishCommand
  | rejects (e : ErrCode) (hnext : s.engineNext = true) (hbusy : s.busy = true) (he : e ≠ .eNone) :
      StepCase s ((s.begin s.inputs.tail).rejectRunning e)
  | reads (off : BitVec 12) (n : Nat) (rest : List Input) (hin : s.inputs = .read off n :: rest) :
      StepCase s (hostRead off n (s.begin rest))
  | writes (off : BitVec 12) (n : Nat) (v : Word) (rest : List Input) (hin : s.inputs = .write off n v :: rest) :
      StepCase s { (s.memWrite off n v).1 with inputs := rest, resp := some (.write (s.memWrite off n v).2) }
  | resets (rest : List Input) (hin : s.inputs = .reset :: rest) : StepCase s (s.begin rest).resetStep

theorem step_cases {s t : State} (h : step s = .next t) : StepCase s t := by
  rcases step_next h with ⟨hnext, hturn⟩ | ⟨off, n, rest, hin, rfl⟩ | ⟨off, n, v, rest, hin, rfl⟩ | ⟨rest, hin, rfl⟩
  · rcases engineTurn_next hturn with ⟨hidle, rfl⟩ | ⟨hbusy, i, hdecode, hcheck, rfl⟩ | ⟨hbusy, e, he, -, rfl⟩
    · exact .idle hnext hidle
    · exact .completes i hnext hbusy hdecode ((checkInstr_congr rfl rfl).trans hcheck)
    · exact .rejects e hnext hbusy he
  · exact .reads off n rest hin
  · rw [hostWrite, memWrite_begin]
    exact .writes off n v rest hin
  · exact .resets rest hin

end Sys2Proof.Machine
end

section
/-! SUPPORT. The invariant of the block: it holds after reset, every step keeps it, and under it a running command
completes (10_state.md R28 to R31, R40, 60_exceptions.md R174, R186). -/

namespace Sys2Proof.Machine

/-! ### The invariant in parts -/

/-- What the invariant says of the hash alone: HSTATE, NN, T and H. -/
structure State.HashInv (s : State) : Prop where
  nn_idle : s.hstate = .idle ↔ s.nn = 0#7
  nn_range : s.nn.toNat ≤ 64
  idle_clear : s.hstate = .idle → s.t = 0#64 ∧ s.h = zeroWords 8
  absorb_count : s.hstate = .absorb → s.t.toNat % 128 = 0

/-- What the invariant says of the rest: the error record and the running command. -/
structure State.EngineInv (s : State) : Prop where
  err_code : s.err = false ↔ s.errcode = .eNone
  cur_idle : s.busy = false → s.cur = 0#64
  running_checked : s.busy = true → checkWord s.cur s = .eNone
  running_err : s.busy = true → s.err = true → isRecoveryOp s.cur = true

section
variable {s t : State}

theorem inv_iff_parts : s.Inv ↔ s.HashInv ∧ s.EngineInv := by
  constructor
  · rintro ⟨hnnIdle, hrange, herr, hcur, hcheck, hrec, hclear, hcount⟩
    exact ⟨⟨hnnIdle, hrange, hclear, hcount⟩, herr, hcur, hcheck, hrec⟩
  · rintro ⟨⟨hnnIdle, hrange, hclear, hcount⟩, herr, hcur, hcheck, hrec⟩
    exact ⟨hnnIdle, hrange, herr, hcur, hcheck, hrec, hclear, hcount⟩

theorem State.HashInv.congr (hs : s.HashInv) (hhstate : t.hstate = s.hstate) (hnn : t.nn = s.nn) (ht : t.t = s.t)
    (hh : t.h = s.h) : t.HashInv := by
  obtain ⟨hnnIdle, hrange, hclear, hcount⟩ := hs
  constructor <;> simpa only [hhstate, hnn, ht, hh]

theorem State.EngineInv.congr (hs : s.EngineInv) (herr : t.err = s.err) (hcode : t.errcode = s.errcode)
    (hbusy : t.busy = s.busy) (hcur : t.cur = s.cur) (hhstate : t.hstate = s.hstate) (ht : t.t = s.t) :
    t.EngineInv := by
  obtain ⟨herrcode, hidle, hcheck, hrec⟩ := hs
  constructor <;> simpa only [herr, hcode, hbusy, hcur, checkWord_congr hhstate ht]

/-- With the engine free only the error record and CUR count. -/
theorem engineInv_of_idle (hidle : s.busy = false) (hcur : s.cur = 0#64) (herr : s.err = false ↔ s.errcode = .eNone) :
    s.EngineInv :=
  ⟨herr, fun _ => hcur, fun hbusy => by simp [hidle] at hbusy, fun hbusy => by simp [hidle] at hbusy⟩

end

/-! ### Reset -/

/-- Settles O59: after reset the hash is idle with everything 0, no command runs and no error is recorded. -/
theorem invariantHoldsAtReset : Obligations.InvariantHoldsAtReset := by
  refine inv_iff_parts.2 ⟨⟨?_, ?_, fun _ => ⟨rfl, rfl⟩, nofun⟩, engineInv_of_idle rfl rfl ?_⟩ <;> simp [State.reset]

/-! ### What a command leaves -/

section
variable {s : State}

/-- INITV's NN is not 0 and fits in its seven bits. -/
theorem initv_nn_bounds {nn : BitVec 8} (hcheck : checkInstr (.initv nn) s = .eNone) :
    (nn.setWidth 7).toNat ≤ 64 ∧ nn.setWidth 7 ≠ 0#7 := by
  obtain ⟨hpos, hle⟩ := checkInstr_initv.1 hcheck
  have hval : (nn.setWidth 7).toNat = nn.toNat := by
    rw [BitVec.toNat_setWidth]
    exact Nat.mod_eq_of_lt (by omega)
  refine ⟨by omega, fun hzero => ?_⟩
  have hzero' : (nn.setWidth 7).toNat = 0 := by rw [hzero]; rfl
  omega

theorem initEffect_hashInv {n : BitVec 7} (hle : n.toNat ≤ 64) (hne : n ≠ 0#7) : (initEffect n s).HashInv :=
  ⟨iff_of_false nofun hne, hle, nofun, fun _ => rfl⟩

/-- BLOCK adds a whole block to a count of whole blocks, and its check keeps the sum below 2^64 (R112). -/
theorem toNat_t_blockEffect (hcheck : checkInstr .block s = .eNone) :
    (blockEffect s).t.toNat = s.t.toNat + 128 := by
  obtain ⟨-, hcount⟩ := checkInstr_block.1 hcheck
  have hblock : (128#64 : Word).toNat = 128 := rfl
  rw [blockEffect_t, BitVec.toNat_add, hblock]
  exact Nat.mod_eq_of_lt (by omega)

theorem toNat_t_lastEffect {len : BitVec 8} (hcheck : checkInstr (.last len) s = .eNone) :
    (lastEffect len s).t.toNat = s.t.toNat + len.toNat := by
  obtain ⟨hlen, -, -, hcount⟩ := checkInstr_last.1 hcheck
  have hwidth : (len.setWidth 64).toNat = len.toNat := by
    rw [BitVec.toNat_setWidth]
    exact Nat.mod_eq_of_lt (by omega)
  rw [lastEffect_t, BitVec.toNat_add, hwidth]
  exact Nat.mod_eq_of_lt (by omega)

/-- A command that passes its check leaves the hash as the invariant says. -/
theorem effectOf_hashInv {i : Instr} (hs : s.HashInv) (hcheck : checkInstr i s = .eNone) : (effectOf i s).HashInv := by
  cases i with
  | init64 => exact initEffect_hashInv (by decide) (by decide)
  | initv nn =>
    obtain ⟨hle, hne⟩ := initv_nn_bounds hcheck
    exact initEffect_hashInv hle hne
  | block =>
    obtain ⟨habsorb, -⟩ := checkInstr_block.1 hcheck
    refine ⟨hs.nn_idle, hs.nn_range, fun hidle => ?_, fun _ => ?_⟩
    · simp [effectOf, habsorb] at hidle
    · have hcount := hs.absorb_count habsorb
      rw [effectOf, toNat_t_blockEffect hcheck]
      omega
  | last len =>
    obtain ⟨-, habsorb, -⟩ := checkInstr_last.1 hcheck
    have hnn : s.nn ≠ 0#7 := hs.nn_idle.not.1 (by simp [habsorb])
    exact ⟨iff_of_false nofun hnn, hs.nn_range, nofun, nofun⟩
  | gcomp => exact hs.congr (gcompEffect_hstate s) (gcompEffect_nn s) (gcompEffect_t s) (gcompEffect_h s)
  | zeroize => exact ⟨iff_of_true rfl rfl, Nat.zero_le _, fun _ => ⟨rfl, rfl⟩, nofun⟩
  | ack => exact hs.congr rfl rfl rfl rfl

/-- Only ACK touches the error record. -/
theorem effectOf_error {i : Instr} (hack : i ≠ .ack) (s : State) :
    (effectOf i s).err = s.err ∧ (effectOf i s).errcode = s.errcode := by
  cases i with
  | ack => exact absurd rfl hack
  | init64 | initv | block | last | gcomp | zeroize => simp [effectOf]

theorem effectOf_err_code {i : Instr} (herr : s.err = false ↔ s.errcode = .eNone) :
    (effectOf i s).err = false ↔ (effectOf i s).errcode = .eNone := by
  by_cases hack : i = .ack
  · subst hack
    exact iff_of_true rfl rfl
  · obtain ⟨herr', hcode'⟩ := effectOf_error hack s
    rwa [herr', hcode']

/-- An error entry records a code and sets ERR. -/
theorem raiseCmdError_err_code {e : ErrCode} (he : e ≠ .eNone) (herr : s.err = false ↔ s.errcode = .eNone) :
    (s.raiseCmdError e).err = false ↔ (s.raiseCmdError e).errcode = .eNone := by
  refine iff_of_false (by simp) ?_
  rw [State.raiseCmdError_errcode]
  split_ifs with herr'
  · exact herr.not.1 (by simp [herr'])
  · exact he

/-! ### What a host write leaves -/

/-- No host write reaches the hash (R59). -/
theorem issueCommand_hash (s : State) (w : Word) :
    (s.issueCommand w).1.hstate = s.hstate ∧ (s.issueCommand w).1.nn = s.nn ∧ (s.issueCommand w).1.t = s.t
      ∧ (s.issueCommand w).1.h = s.h := by
  rw [issueCommand_eq]
  split_ifs <;> exact ⟨rfl, rfl, rfl, rfl⟩

theorem memWrite_hash (s : State) (off : BitVec 12) (n : Nat) (v : Word) :
    (s.memWrite off n v).1.hstate = s.hstate ∧ (s.memWrite off n v).1.nn = s.nn ∧ (s.memWrite off n v).1.t = s.t
      ∧ (s.memWrite off n v).1.h = s.h := by
  rcases memWrite_cases s off n v with heq | ⟨-, -, heq⟩ | ⟨-, -, heq⟩ | ⟨-, -, heq⟩ | ⟨-, i, -, -, heq⟩
    | ⟨-, i, -, -, heq⟩ | ⟨-, i, -, -, heq⟩ <;> rw [heq]
  case inr.inl => exact issueCommand_hash s v
  all_goals exact ⟨rfl, rfl, rfl, rfl⟩

/-- An accepted command has passed its check, and while an error is recorded it is ZEROIZE or ACK (R171). -/
theorem issueCommand_engineInv (hs : s.EngineInv) (w : Word) : (s.issueCommand w).1.EngineInv := by
  rw [issueCommand_eq]
  split_ifs with hbusy hrefused hcheck
  · exact hs
  · exact hs
  · refine ⟨hs.err_code, nofun, fun _ => (checkWord_congr rfl rfl).trans hcheck, fun _ herr => ?_⟩
    simpa using fun hop => hrefused ⟨herr, hop⟩
  · have hidle : s.busy = false := by simpa using hbusy
    exact engineInv_of_idle hidle (hs.cur_idle hidle) (raiseCmdError_err_code hcheck hs.err_code)

theorem memWrite_engineInv (hs : s.EngineInv) (off : BitVec 12) (n : Nat) (v : Word) :
    (s.memWrite off n v).1.EngineInv := by
  rcases memWrite_cases s off n v with heq | ⟨-, -, heq⟩ | ⟨-, -, heq⟩ | ⟨-, -, heq⟩ | ⟨-, i, -, -, heq⟩
    | ⟨-, i, -, -, heq⟩ | ⟨-, i, -, -, heq⟩ <;> rw [heq]
  case inr.inl => exact issueCommand_engineInv hs v
  all_goals exact hs.congr rfl rfl rfl rfl rfl rfl

end

/-! ### Every step -/

/-- Settles O60: case by case of a step, the hash and the engine apart. -/
theorem everyStepKeepsInvariant : Obligations.EveryStepKeepsInvariant := by
  intro s t hinv hstep
  obtain ⟨hhash, hengine⟩ := inv_iff_parts.1 hinv
  rw [inv_iff_parts]
  cases step_cases hstep with
  | idle => exact ⟨hhash.congr rfl rfl rfl rfl, hengine.congr rfl rfl rfl rfl rfl rfl⟩
  | completes i hnext hbusy hdecode hcheck =>
    have hbegin : (s.begin s.inputs.tail).HashInv := hhash.congr rfl rfl rfl rfl
    have heffect := effectOf_hashInv hbegin ((checkInstr_congr rfl rfl).trans hcheck)
    exact ⟨heffect.congr rfl rfl rfl rfl, engineInv_of_idle rfl rfl (effectOf_err_code hengine.err_code)⟩
  | rejects e hnext hbusy he =>
    exact ⟨hhash.congr rfl rfl rfl rfl, engineInv_of_idle rfl rfl (raiseCmdError_err_code (s := s) he hengine.err_code)⟩
  | reads => exact ⟨hhash.congr rfl rfl rfl rfl, hengine.congr rfl rfl rfl rfl rfl rfl⟩
  | writes off n v rest hin =>
    obtain ⟨hhstate, hnn, ht, hh⟩ := memWrite_hash s off n v
    exact ⟨hhash.congr hhstate hnn ht hh, (memWrite_engineInv hengine off n v).congr rfl rfl rfl rfl rfl rfl⟩
  | resets =>
    obtain ⟨hhash', hengine'⟩ := inv_iff_parts.1 invariantHoldsAtReset
    exact ⟨hhash'.congr rfl rfl rfl rfl, hengine'.congr rfl rfl rfl rfl rfl rfl⟩

/-! ### The running command completes (R174, R186) -/

theorem State.Inv.running {s : State} (hs : s.Inv) (hbusy : s.busy = true) :
    ∃ i, decode s.cur = .ok i ∧ checkInstr i s = .eNone := checkWord_eq_none (hs.running_checked hbusy)

theorem wf_of_check {i : Instr} {s : State} (hcheck : checkInstr i s = .eNone) : i.wf = true := by
  cases i with
  | initv nn => simpa [Instr.wf] using checkInstr_initv.1 hcheck
  | last len => simpa [Instr.wf] using (checkInstr_last.1 hcheck).1
  | init64 | block | gcomp | zeroize | ack => rfl

theorem effectOf_err_of_no_error {s : State} (i : Instr) (herr : s.err = false) : (effectOf i s).err = false := by
  by_cases hack : i = .ack
  · rw [hack]
    rfl
  · rw [(effectOf_error hack s).1, herr]

/-- Settles O55: the invariant gives the command and its check, with which the engine's turn is `effectOf` and the
completion. -/
theorem acceptedCommandCompletes : Obligations.AcceptedCommandCompletes := by
  intro s hinv hbusy hnext
  obtain ⟨i, hdecode, hcheck⟩ := hinv.running hbusy
  have hcheck' : checkInstr i (s.begin s.inputs.tail) = .eNone := (checkInstr_congr rfl rfl).trans hcheck
  have hexec := exec_of_check hcheck'
  refine ⟨i, _, hdecode, hcheck, wf_of_check hcheck, (stepRunsLatchedCommand s i hbusy hnext hdecode).trans hexec, hexec,
    rfl, rfl, (getLsbD_setDone _).1, fun herr => effectOf_err_of_no_error i herr⟩

/-- Settles O53: a write that makes ERR 1 would, with BUSY = 1, reach the interrupt registers alone; an engine turn with
BUSY = 0 changes nothing; and the command still running after a clear of IRQ_PEND completes. -/
theorem completionAndRejectionNeverRace : Obligations.CompletionAndRejectionNeverRace := by
  refine ⟨fun s off n v herr' herr => ?rejection, fun s t hturn hne => ?completion,
    fun s t v hinv hbusy hturn => ?done⟩
  case rejection =>
    by_contra hbusy
    have hkeeps := congrArg State.err (memWrite_of_running (Bool.eq_true_of_not_eq_false hbusy) off n v)
    simp [herr', herr] at hkeeps
  case completion =>
    by_contra hidle
    rw [engineTurn_of_idle (Bool.eq_false_of_not_eq_true hidle)] at hturn
    exact hne (Host.Outcome.next.inj hturn).symm
  case done =>
    obtain ⟨i, hdecode, hcheck⟩ := hinv.running hbusy
    rw [memWrite_offIrqPend] at hturn
    have hturn' := engineTurn_of_check (s := { s with irqPend := clearPend s.irqPend v }) hbusy hdecode
      ((checkInstr_congr rfl rfl).trans hcheck)
    obtain rfl := Host.Outcome.next.inj (hturn'.symm.trans hturn)
    exact (getLsbD_setDone _).1

end Sys2Proof.Machine
end

section
/-! SUPPORT. Rules on every step: when HSTATE changes, how long an error stays recorded, and that the byte counter never
wraps (10_state.md R28 to R31, 40_blake2b.md R108, 60_exceptions.md R176, R177). -/

namespace Sys2Proof.Machine

/-! ### HSTATE (R28) -/

/-- Settles O48: of the cases of a step only reset and a completion touch HSTATE, and the completion does by the effect
of its command. -/
theorem hashStateTransitionsFollowRule : Obligations.HashStateTransitionsFollowRule := by
  intro s t hstep hne
  cases step_cases hstep with
  | idle | rejects | reads => exact absurd rfl hne
  | writes off n v => exact absurd (memWrite_hash s off n v).1 hne
  | resets rest hin => exact .inl ⟨by rw [hin]; rfl, rfl⟩
  | completes i hnext hbusy hdecode hcheck =>
    refine .inr ⟨hbusy, hnext, ?_⟩
    cases i with
    | init64 => exact .inl ⟨hdecode, rfl⟩
    | initv nn => exact .inr (.inl ⟨nn, hdecode, rfl⟩)
    | last len =>
      obtain ⟨-, habsorb, -⟩ := checkInstr_last.1 hcheck
      exact .inr (.inr (.inl ⟨len, hdecode, habsorb, rfl⟩))
    | zeroize => exact .inr (.inr (.inr ⟨hdecode, rfl⟩))
    | block | gcomp | ack => simp [effectOf] at hne

/-! ### The recorded error (R30, R176, R177) -/

/-- A host write keeps the first error code; a rejection records no second one. -/
theorem memWrite_keeps_error {s : State} (herr : s.err = true) (off : BitVec 12) (n : Nat) (v : Word) :
    (s.memWrite off n v).1.err = true ∧ (s.memWrite off n v).1.errcode = s.errcode := by
  rcases memWrite_cases s off n v with heq | ⟨-, -, heq⟩ | ⟨-, -, heq⟩ | ⟨-, -, heq⟩ | ⟨-, i, -, -, heq⟩
    | ⟨-, i, -, -, heq⟩ | ⟨-, i, -, -, heq⟩ <;> rw [heq]
  case inr.inl =>
    rw [issueCommand_eq]
    split_ifs <;> simp [herr]
  all_goals exact ⟨herr, rfl⟩

/-- Settles O49: only reset and the effect of ACK clear ERR, and with ERR = 1 an error entry keeps the code. -/
theorem errorStaysUntilAckOrReset : Obligations.ErrorStaysUntilAckOrReset := by
  intro s t herr hstep
  cases step_cases hstep with
  | idle | reads => exact .inl ⟨herr, rfl⟩
  | rejects e => exact .inl ⟨rfl, by simp [herr]⟩
  | writes off n v => exact .inl (memWrite_keeps_error herr off n v)
  | resets rest hin => exact .inr (.inl (by rw [hin]; rfl))
  | completes i hnext hbusy hdecode =>
    by_cases hack : i = .ack
    · exact .inr (.inr ⟨hbusy, hnext, hack ▸ hdecode⟩)
    · obtain ⟨herr', hcode'⟩ := effectOf_error hack (s.begin s.inputs.tail)
      exact .inl ⟨herr'.trans herr, hcode'⟩

/-! ### The byte counter (R31, R108) -/

/-- Settles O54: BLOCK and LAST make T larger as a number, and of all else that a step can do only the commands that set
T to 0 and reset make it smaller. -/
theorem byteCounterNeverWraps : Obligations.ByteCounterNeverWraps := by
  refine ⟨fun s t hstep hlt => ?step, fun s t hcheck hexec => ?block, fun s t len hcheck hexec => ?last⟩
  case step =>
    cases step_cases hstep with
    | idle | rejects | reads => exact absurd hlt (Nat.lt_irrefl _)
    | writes off n v =>
      obtain ⟨-, -, ht, -⟩ := memWrite_hash s off n v
      simp [ht] at hlt
    | resets rest hin => exact .inl (by rw [hin]; rfl)
    | completes i hnext hbusy hdecode hcheck =>
      have hcheck' : checkInstr i (s.begin s.inputs.tail) = .eNone := (checkInstr_congr rfl rfl).trans hcheck
      rw [State.finishCommand_t] at hlt ⊢
      cases i with
      | init64 => exact .inr ⟨hbusy, hnext, rfl, .inl hdecode⟩
      | initv nn => exact .inr ⟨hbusy, hnext, rfl, .inr (.inr ⟨nn, hdecode⟩)⟩
      | zeroize => exact .inr ⟨hbusy, hnext, rfl, .inr (.inl hdecode)⟩
      | block =>
        rw [effectOf, toNat_t_blockEffect hcheck', State.begin_t] at hlt
        omega
      | last len =>
        rw [effectOf, toNat_t_lastEffect hcheck', State.begin_t] at hlt
        omega
      | gcomp | ack => simp [effectOf] at hlt
  case block =>
    rw [exec_of_check hcheck] at hexec
    obtain rfl := Host.Outcome.next.inj hexec
    exact toNat_t_blockEffect hcheck
  case last =>
    rw [exec_of_check hcheck] at hexec
    obtain rfl := Host.Outcome.next.inj hexec
    exact toNat_t_lastEffect hcheck

end Sys2Proof.Machine
end

section
/-! SUPPORT. The hidden engine state: it is observable by nothing, and but for it a command written and the engine's
turn after it are `exec` (10_state.md R39, 60_exceptions.md R171, R174). -/

namespace Sys2Proof.Machine

/-! ### The hidden state exchanged -/

/-- `s` with other hidden engine state, and another count of free values. -/
def State.withHidden (s : State) (k : EngineWork) (n : Nat) : State := { s with work := k, freeCount := n }

section
variable (s : State) (k : EngineWork) (n : Nat)

theorem sameButHidden_iff {s t : State} : sameButHidden s t ↔ ∃ k n, t = s.withHidden k n := by
  constructor
  · exact fun h => ⟨t.work, t.freeCount, h.symm⟩
  · rintro ⟨k, n, rfl⟩
    rfl

@[simp] theorem State.withHidden_busy : (s.withHidden k n).busy = s.busy := rfl

@[simp] theorem State.withHidden_err : (s.withHidden k n).err = s.err := rfl

theorem checkWord_withHidden (w : Word) : checkWord w (s.withHidden k n) = checkWord w s := checkWord_congr rfl rfl

/-- No register shows the hidden state. -/
theorem memRead_withHidden (off : BitVec 12) (size : Nat) :
    (s.withHidden k n).memRead off size = s.memRead off size := by
  unfold State.memRead
  cases accessFormOk off size
  · rfl
  · cases regAt off <;> rfl

/-- A host write treats states alike but for the hidden state alike. -/
theorem issueCommand_withHidden (w : Word) :
    sameButHidden (s.issueCommand w).1 ((s.withHidden k n).issueCommand w).1
      ∧ ((s.withHidden k n).issueCommand w).2 = (s.issueCommand w).2 := by
  simp only [issueCommand_eq, checkWord_withHidden, State.withHidden_busy, State.withHidden_err]
  split_ifs <;> exact ⟨rfl, rfl⟩

theorem memWrite_withHidden (off : BitVec 12) (size : Nat) (v : Word) :
    sameButHidden (s.memWrite off size v).1 ((s.withHidden k n).memWrite off size v).1
      ∧ ((s.withHidden k n).memWrite off size v).2 = (s.memWrite off size v).2 := by
  unfold State.memWrite
  cases accessFormOk off size
  · exact ⟨rfl, rfl⟩
  · simp only [if_true]
    cases regAt off with
    | cmd => exact issueCommand_withHidden s k n v
    | m | x | y =>
      cases hbusy : s.busy
      all_goals
        simp only [State.writeReg, State.withHidden_busy, hbusy, Bool.false_eq_true, if_true, if_false, and_true]
        rfl
    | _ => exact ⟨rfl, rfl⟩

theorem hostRead_withHidden (off : BitVec 12) (size : Nat) :
    sameButHidden (hostRead off size s) (hostRead off size (s.withHidden k n)) := by
  rw [hostRead, hostRead, memRead_withHidden]
  rfl

theorem hostWrite_withHidden (off : BitVec 12) (size : Nat) (v : Word) :
    sameButHidden (hostWrite off size v s) (hostWrite off size v (s.withHidden k n)) := by
  obtain ⟨hstate, hresp⟩ := memWrite_withHidden s k n off size v
  obtain ⟨k', n', heq⟩ := sameButHidden_iff.1 hstate
  rw [hostWrite, hostWrite, hresp, heq]
  rfl

/-- The completed effect of a command reads neither the latch nor the hidden state. -/
theorem finishCommand_effectOf_sameButHidden (i : Instr) (b : Bool) (w : Word) :
    sameButHidden (effectOf i { s with busy := b, cur := w, work := k, freeCount := n }).finishCommand
      (effectOf i s).finishCommand := by
  unfold sameButHidden
  cases i <;> simp only [effectOf, State.finishCommand, initEffect, blockEffect, lastEffect, gcompEffect,
    zeroizeEffect, ackEffect]

theorem sameButHidden_symm {s t : State} (h : sameButHidden s t) : sameButHidden t s := by
  obtain ⟨k, n, rfl⟩ := sameButHidden_iff.1 h
  rfl

theorem exec_withHidden (i : Instr) : sameOutcomeButHidden (exec i s) (exec i (s.withHidden k n)) := by
  have hcheck : checkInstr i (s.withHidden k n) = checkInstr i s := checkInstr_congr rfl rfl
  rw [exec_eq, exec_eq, hcheck]
  split_ifs
  · exact sameButHidden_symm (finishCommand_effectOf_sameButHidden s k n i s.busy s.cur)
  · rfl

theorem engineTurn_withHidden : sameOutcomeButHidden (engineTurn s) (engineTurn (s.withHidden k n)) := by
  cases hbusy : s.busy with
  | false =>
    rw [engineTurn_of_idle hbusy, engineTurn_of_idle (s := s.withHidden k n) hbusy]
    rfl
  | true =>
    cases hdecode : decode s.cur with
    | ok i =>
      rw [engineTurn_of_decode hbusy hdecode, engineTurn_of_decode (s := s.withHidden k n) hbusy hdecode]
      exact exec_withHidden s k n i
    | error e =>
      rw [engineTurn_of_decode_error hbusy hdecode, engineTurn_of_decode_error (s := s.withHidden k n) hbusy hdecode]
      rfl

end

/-- Settles O57: every kind of input, and the engine's turn, treats the two states alike. -/
theorem hiddenStateIsUnobservable : Obligations.HiddenStateIsUnobservable := by
  intro s t hsame
  obtain ⟨k, n, rfl⟩ := sameButHidden_iff.1 hsame
  have hinputs : (s.withHidden k n).inputs = s.inputs := rfl
  unfold step
  rw [hinputs]
  rcases s.inputs with _ | ⟨a, rest⟩
  · exact engineTurn_withHidden (s.begin []) k n
  · cases a with
    | read off size => exact hostRead_withHidden (s.begin rest) k n off size
    | write off size v => exact hostWrite_withHidden (s.begin rest) k n off size v
    | engine => exact engineTurn_withHidden (s.begin rest) k n
    | reset => rfl
    | accessInReset => rfl

/-! ### A command written and carried out (R171, R174) -/

/-- Settles O56: an accepted command is carried out on a state that differs in the latch and the hidden state alone, and
a rejected one leaves the error entry both ways. -/
theorem issueThenTurnIsExec : Obligations.IssueThenTurnIsExec := by
  intro s i hidle hcur hrecovery
  have hadmitted : s.err = false ∨ opField (encode i) = 0x0E#8 ∨ opField (encode i) = 0x0F#8 := by
    cases herr : s.err with
    | false => exact .inl rfl
    | true =>
      rcases hrecovery herr with rfl | rfl
      · exact .inr (.inr rfl)
      · exact .inr (.inl rfl)
  rw [memWrite_offCmd_of_admitted hidle hadmitted, checkWord_encode]
  refine ⟨fun hcheck => ?completes, fun hcheck => ?rejects⟩
  case completes =>
    rw [if_pos hcheck, exec_of_check hcheck, engineTurn_of_check (s := s.acceptCommand (encode i)) rfl
      (decode_encode i) ((checkInstr_congr rfl rfl).trans hcheck)]
    exact finishCommand_effectOf_sameButHidden s _ _ i true (encode i)
  case rejects =>
    rw [if_neg hcheck, exec_of_reject hcheck]
    simp [sameOutcomeButHidden, sameButHidden, State.rejectRunning, State.raiseCmdError, hidle, hcur]

end Sys2Proof.Machine
end
